-- ==== Sys2Proof/Word.lean ====
section
/-! DEFINITION. The widths of OOKDEC's ports and of its memory cells (`30_encoding.md` R81, R82; `20_memory.md` R50). -/

namespace Sys2Proof

/-- One location of the frame buffer, 8 bits (R50). -/
abbrev Byte := BitVec 8

/-- The operand of FEED, `pulse_width`, 16 bits unsigned (R86). -/
abbrev Width := BitVec 16

/-- The operation word `{clear, pulse_valid, pulse_width}`, 18 bits (R82). -/
abbrev OpWord := BitVec 18

/-- The address on the read port, 5 bits (R50, R81). -/
abbrev RdAddr := BitVec 5

end Sys2Proof
end

