-- ==== Sys2Proof/Config.lean ====
section
/-! DEFINITION. What is fixed when the block is built: the seven protocol constants (`00_scope.md` R6), the open
parameter CAP (R7, D4), and the free values for what the spec leaves unspecified
(`93_implementation_defined.md` U1 to U4). -/

namespace Sys2Proof

/-- The one open structural parameter (R7, D4): CAP bytes of frame buffer, `14 <= CAP <= 32`.
A value of this type is an admitted configuration: a CAP outside the range cannot be built (U7 `refuse`). -/
structure Config where
  cap    : Nat
  cap_ok : 14 ≤ cap ∧ cap ≤ 32
  deriving DecidableEq, Repr

/-- The configuration of the machine under the fixed names: CAP at its default, 31 (R7).
DESIGN CHOICE (log entry 1): the spec leaves CAP open. -/
def Config.hw : Config := { cap := 31, cap_ok := by decide }

/-- W_MIN: least width inside the validity window, inclusive (R6). -/
@[simp] abbrev Config.wMin : Nat := 200
/-- W_MAX: upper end of the validity window, exclusive (R6). -/
@[simp] abbrev Config.wMax : Nat := 1200
/-- W_LONG: a pulse in the window is LONG from this width on (R6). -/
@[simp] abbrev Config.wLong : Nat := 700
/-- PRE_MIN: the preamble run-length threshold (R6), also FLIP_SAT, the value the count saturates at (R7). -/
@[simp] abbrev Config.preMin : Nat := 32
/-- SHORT_LO: lower end of the short-frame band, inclusive (R6). -/
@[simp] abbrev Config.shortLo : Nat := 40
/-- SHORT_HI: upper end of the short-frame band, inclusive (R6). -/
@[simp] abbrev Config.shortHi : Nat := 103
/-- FULL_BITS: the exact count of a full frame (R6). -/
@[simp] abbrev Config.fullBits : Nat := 104

/-- Free value: the byte DATA[address] holds after the hardware reset that took the given draw (R210, U3).
Log entry 2. -/
opaque Config.powerOnByte : (draw : Nat) → (address : Nat) → Byte

/-- Free value: a byte the consumer reads where the spec says the read means nothing, by draw and address
(U1, U2, U4). Log entries 3 and 6. -/
opaque Config.freeByte : (draw : Nat) → (address : Nat) → Byte

/-- Free value: the count a GETFRAME returns while STATE is not DONE, by draw (U1). Log entries 3 and 6. -/
opaque Config.freeCount : (draw : Nat) → BitVec 5

end Sys2Proof
end

