-- ==== Sys2Proof/Syntax.lean ====
section
/-! DEFINITION. The operation set of OOKDEC (`30_encoding.md` R80, R87, R89, R94, R95): one constructor of `Instr`
for each row of `spec/opcode_table.json`. -/

namespace Sys2Proof

/-- The class of a pulse (`00_scope.md` R12, `42_oregon_v3.md` R150). -/
inductive PulseClass where
  | gap
  | short
  | long
  deriving DecidableEq, Repr

/-- The two ways GETFRAME is used (`40_engine_ops.md` R112, `20_memory.md` R55): the count and all the bytes below
it, or the count and the one byte at an address put on `rd_addr`. -/
inductive FrameRead where
  | whole
  | byteAt (rdAddr : RdAddr)
  deriving DecidableEq, Repr

/-- The operations at the block's boundary (R80): what one clock edge, or one observation, can be. -/
inductive BoundaryOp where
  | hwreset
  | reset
  | feed (w : Width)
  | idle
  | isdone
  | getframe (r : FrameRead)
  deriving DecidableEq, Repr

/-- The pseudo-operations with an expansion of their own (R95). Bits are `false` for 0 and `true` for 1. -/
inductive Pseudo where
  | long
  | short
  | gap
  | preamble (n : Nat)
  | sync
  | toggle
  | same
  | frameBits (bs : List Bool)
  | frameBytes (hs : List Byte)
  deriving DecidableEq, Repr

/-- The operations that may stand in the body of REP (R94): an operation, a pseudo-operation, another REP, or a
bracketed list, written as a chain of `seq`. -/
inductive TraceOp where
  | op     (o : BoundaryOp)
  | pseudo (p : Pseudo)
  | rep    (n : Nat) (body : TraceOp)
  | seq    (first rest : TraceOp)
  deriving DecidableEq, Repr

/-- The operation set: one constructor per row of the opcode table, in the table's order. -/
inductive Instr where
  /-- RESET (R113). -/
  | reset
  /-- FEED w (R110). -/
  | feed (w : Width)
  /-- IDLE (R115). -/
  | idle
  /-- HWRESET, the `hwreset` pin (R116). -/
  | hwreset
  /-- ISDONE (R111). -/
  | isdone
  /-- GETFRAME (R112, R55). -/
  | getframe (r : FrameRead)
  /-- FEED.GAP_LOW, w in 0..199 (R87, R150). -/
  | feedGapLow (w : Width)
  /-- FEED.SHORT, w in 200..699 (R87, R150). -/
  | feedShort (w : Width)
  /-- FEED.LONG, w in 700..1199 (R87, R150). -/
  | feedLong (w : Width)
  /-- FEED.GAP_HIGH, w in 1200..65535 (R87, R150). -/
  | feedGapHigh (w : Width)
  /-- STEP.DONE_ANY (R118). -/
  | stepDoneAny (p : PulseClass)
  /-- STEP.GAP_COMPLETE (R152). -/
  | stepGapComplete
  /-- STEP.GAP_INVALID (R152). -/
  | stepGapInvalid
  /-- STEP.UNKNOWN_LONG (R153). -/
  | stepUnknownLong
  /-- STEP.UNKNOWN_SHORT_SYNC (R154). -/
  | stepUnknownShortSync
  /-- STEP.UNKNOWN_SHORT_EARLY (R155). -/
  | stepUnknownShortEarly
  /-- STEP.OK_SHORT (R156). -/
  | stepOkShort
  /-- STEP.OK_LONG (R157). -/
  | stepOkLong
  /-- STEP.T0_SHORT (R158). -/
  | stepT0Short
  /-- STEP.T0_LONG (R159). -/
  | stepT0Long
  /-- STEP.RESERVED, an in-window pulse in a reserved state (R160). -/
  | stepReserved (p : PulseClass)
  /-- STEP.FULL_FRAME, after an in-window pulse (R161). -/
  | stepFullFrame (p : PulseClass)
  /-- RECBIT v (R130). -/
  | recbit (v : Bool)
  /-- RECMAN v (R131). -/
  | recman (v : Bool)
  /-- PAD (R132). -/
  | pad
  /-- do_reset (R114). -/
  | doReset
  /-- LONG (R95). -/
  | long
  /-- SHORT (R95). -/
  | short
  /-- GAP (R95). -/
  | gap
  /-- PREAMBLE n (R95). -/
  | preamble (n : Nat)
  /-- SYNC (R95). -/
  | sync
  /-- TOGGLE (R95). -/
  | toggle
  /-- SAME (R95). -/
  | same
  /-- FRAMEBITS b0 b1 ... (R95). -/
  | frameBits (bs : List Bool)
  /-- FRAMEBYTES h0 h1 ... (R95). -/
  | frameBytes (hs : List Byte)
  /-- REP n, op (R94). -/
  | rep (n : Nat) (body : TraceOp)
  deriving DecidableEq, Repr

end Sys2Proof
end

