-- ==== Sys2Proof/WellFormed.lean ====
section
/-! DEFINITION. Which terms of `Instr` the spec admits. The operand of FEED is legal at every value
(`30_encoding.md` R91); what is left to check is the range of an operand-class row (R87), the class of a step line
(R89) and the first bit of a frame pseudo-operation (R95). -/

namespace Sys2Proof

/-- FRAMEBITS has at least the bit that SYNC records, and that bit is 0 (R95 "b0 must be 0"). What a list
that is refused here stands for all the same: log entry 16. -/
def frameBitsOk (bs : List Bool) : Bool :=
  match bs with
  | []     => false
  | b :: _ => !b

/-- FRAMEBYTES has at least one byte, and bit 0 of the first is 0 (R95 "bit 0 of h0 must be 0"). Log
entry 16. -/
def frameBytesOk (hs : List Byte) : Bool :=
  match hs with
  | []     => false
  | h :: _ => !h.getLsbD 0

def Pseudo.wellFormed (p : Pseudo) : Bool :=
  match p with
  | .long          => true
  | .short         => true
  | .gap           => true
  | .preamble _    => true
  | .sync          => true
  | .toggle        => true
  | .same          => true
  | .frameBits bs  => frameBitsOk bs
  | .frameBytes hs => frameBytesOk hs

def TraceOp.wellFormed (t : TraceOp) : Bool :=
  match t with
  | .op _           => true
  | .pseudo p       => p.wellFormed
  | .rep _ body     => body.wellFormed
  | .seq first rest => first.wellFormed && rest.wellFormed

/-- The well-formed instructions. -/
def WellFormed (i : Instr) : Bool :=
  match i with
  | .reset                 => true
  | .feed _                => true
  | .idle                  => true
  | .hwreset               => true
  | .isdone                => true
  | .getframe _            => true
  | .feedGapLow w          => decide (w.toNat < Config.wMin)
  | .feedShort w           => decide (Config.wMin ≤ w.toNat) && decide (w.toNat < Config.wLong)
  | .feedLong w            => decide (Config.wLong ≤ w.toNat) && decide (w.toNat < Config.wMax)
  | .feedGapHigh w         => decide (Config.wMax ≤ w.toNat)
  | .stepDoneAny _         => true
  | .stepGapComplete       => true
  | .stepGapInvalid        => true
  | .stepUnknownLong       => true
  | .stepUnknownShortSync  => true
  | .stepUnknownShortEarly => true
  | .stepOkShort           => true
  | .stepOkLong            => true
  | .stepT0Short           => true
  | .stepT0Long            => true
  | .stepReserved p        => decide (p ≠ .gap)
  | .stepFullFrame p       => decide (p ≠ .gap)
  | .recbit _              => true
  | .recman _              => true
  | .pad                   => true
  | .doReset               => true
  | .long                  => true
  | .short                 => true
  | .gap                   => true
  | .preamble _            => true
  | .sync                  => true
  | .toggle                => true
  | .same                  => true
  | .frameBits bs          => frameBitsOk bs
  | .frameBytes hs         => frameBytesOk hs
  | .rep _ body            => body.wellFormed

end Sys2Proof
end

