-- ==== Sys2Proof/Decode.lean ====
section
/-! DEFINITION. Decoding the ports (`30_encoding.md` R81 to R83, R90), then the encoder (R94, R96) with the
expansions of the pseudo-operations (R95). -/

namespace Sys2Proof

/-! ## Decoding -/

/-- What the three agents present to the block at one moment: a rising clock edge with the `hwreset` pin and the
operation word (R81, R82), or one of the consumer's observations, which take no clock (R80). -/
inductive PortEvent where
  | clock (hwreset : Bool) (word : OpWord)
  | readDone
  | readFrame (r : FrameRead)
  deriving DecidableEq, Repr

/-- Decode of the operation word, lines (2) to (4) of R83. Every word decodes (R90), a FEED word to FEED and never to one
of the rows that name it a second time (DESIGN CHOICE, log entry 12). -/
def decodeWord (w : OpWord) : BoundaryOp :=
  if w.getLsbD 17 then .reset
  else if w.getLsbD 16 then .feed (w.extractLsb' 0 16)
  else .idle

/-- Decode of one port event: `hwreset` overrides the word, line (1) of R83. -/
def PortEvent.decode (e : PortEvent) : BoundaryOp :=
  match e with
  | .clock true _     => .hwreset
  | .clock false word => decodeWord word
  | .readDone         => .isdone
  | .readFrame r      => .getframe r

/-- A boundary operation as a row of the opcode table. -/
def BoundaryOp.toInstr (o : BoundaryOp) : Instr :=
  match o with
  | .hwreset    => .hwreset
  | .reset      => .reset
  | .feed w     => .feed w
  | .idle       => .idle
  | .isdone     => .isdone
  | .getframe r => .getframe r

/-- A pseudo-operation as a row of the opcode table. -/
def Pseudo.toInstr (p : Pseudo) : Instr :=
  match p with
  | .long          => .long
  | .short         => .short
  | .gap           => .gap
  | .preamble n    => .preamble n
  | .sync          => .sync
  | .toggle        => .toggle
  | .same          => .same
  | .frameBits bs  => .frameBits bs
  | .frameBytes hs => .frameBytes hs

/-- Why a list of bytes is no operation word. -/
inductive DecodeError where
  /-- The bytes are not exactly the three that hold one 18-bit word. -/
  | notThreeBytes
  /-- A bit above bit 17 is set: the word has 18 bits (R82). -/
  | widerThanEighteenBits
  deriving DecidableEq, Repr

/-- The 18-bit word in three bytes, the first holding bits 7 to 0.
DESIGN CHOICE (log entry 11): the word is a port, the spec stores it nowhere. -/
def decode (bytes : List Byte) : Except DecodeError Instr :=
  match bytes with
  | [b0, b1, b2] =>
    let n := b0.toNat + 256 * b1.toNat + 65536 * b2.toNat
    if n < 2 ^ 18 then .ok (decodeWord (BitVec.ofNat 18 n)).toInstr
    else .error .widerThanEighteenBits
  | _ => .error .notThreeBytes

/-- The three bytes of a number below 2 ^ 24, least significant first. -/
def threeBytes (n : Nat) : List Byte :=
  [BitVec.ofNat 8 n, BitVec.ofNat 8 (n / 256), BitVec.ofNat 8 (n / 65536)]

/-- The instruction the decoder reads from the table's numbering of a row's bits: `nbits` of them, bit 0 the least
significant bit of the one word, all higher bits 0. -/
def decodeTableWord (nbits w : Nat) : Option Instr :=
  let n := w % 2 ^ nbits
  if n < 2 ^ 24 then (decode (threeBytes n)).toOption else none

/-! ## Expansion of the pseudo-operations (R95) -/

/-- LONG is `FEED 900`, SHORT is `FEED 400`, GAP is `FEED 1500` (R95). -/
def longOp : BoundaryOp := .feed 900#16
def shortOp : BoundaryOp := .feed 400#16
def gapOp : BoundaryOp := .feed 1500#16

/-- The symbols after the first bit: TOGGLE where a bit differs from the previous one, SAME where it is equal. -/
def symbols (previous : Bool) (bs : List Bool) : List BoundaryOp :=
  match bs with
  | []      => []
  | b :: bs => (if b = previous then [shortOp, shortOp] else [longOp]) ++ symbols b bs

/-- FRAMEBITS: SYNC for the first bit, then one symbol a bit (R95). R95 gives no meaning to a first bit of 1 or to an empty
list, which `WellFormed` refuses: issued all the same, the first stands for SYNC and symbols relative to the 1, the second
for no operation. DESIGN CHOICE, log entry 16. -/
def frameBitsOps (bs : List Bool) : List BoundaryOp :=
  match bs with
  | []      => []
  | b :: bs => shortOp :: symbols b bs

/-- The bits of the bytes in order, within each byte bit 0 first. -/
def bitsOfBytes (hs : List Byte) : List Bool :=
  hs.flatMap fun h => (List.range 8).map h.getLsbD

def Pseudo.expand (p : Pseudo) : List BoundaryOp :=
  match p with
  | .long          => [longOp]
  | .short         => [shortOp]
  | .gap           => [gapOp]
  | .preamble n    => List.replicate n longOp
  | .sync          => [shortOp]
  | .toggle        => [longOp]
  | .same          => [shortOp, shortOp]
  | .frameBits bs  => frameBitsOps bs
  | .frameBytes hs => frameBitsOps (bitsOfBytes hs)

/-- The operations a trace operation stands for, in order (R94). -/
def TraceOp.expand (t : TraceOp) : List BoundaryOp :=
  match t with
  | .op o           => [o]
  | .pseudo p       => p.expand
  | .rep n body     => (List.replicate n body.expand).flatten
  | .seq first rest => first.expand ++ rest.expand

/-- The trace operation an instruction is, if it can stand in a trace. The lines of the step map and the
micro-operations cannot: nothing outside the block invokes them (R80). -/
def Instr.asTrace (i : Instr) : Option TraceOp :=
  match i with
  | .reset                 => some (.op .reset)
  | .feed w                => some (.op (.feed w))
  | .idle                  => some (.op .idle)
  | .hwreset               => some (.op .hwreset)
  | .isdone                => some (.op .isdone)
  | .getframe r            => some (.op (.getframe r))
  | .feedGapLow w          => some (.op (.feed w))
  | .feedShort w           => some (.op (.feed w))
  | .feedLong w            => some (.op (.feed w))
  | .feedGapHigh w         => some (.op (.feed w))
  | .stepDoneAny _         => none
  | .stepGapComplete       => none
  | .stepGapInvalid        => none
  | .stepUnknownLong       => none
  | .stepUnknownShortSync  => none
  | .stepUnknownShortEarly => none
  | .stepOkShort           => none
  | .stepOkLong            => none
  | .stepT0Short           => none
  | .stepT0Long            => none
  | .stepReserved _        => none
  | .stepFullFrame _       => none
  | .recbit _              => none
  | .recman _              => none
  | .pad                   => none
  | .doReset               => none
  | .long                  => some (.pseudo .long)
  | .short                 => some (.pseudo .short)
  | .gap                   => some (.pseudo .gap)
  | .preamble n            => some (.pseudo (.preamble n))
  | .sync                  => some (.pseudo .sync)
  | .toggle                => some (.pseudo .toggle)
  | .same                  => some (.pseudo .same)
  | .frameBits bs          => some (.pseudo (.frameBits bs))
  | .frameBytes hs         => some (.pseudo (.frameBytes hs))
  | .rep n body            => some (.rep n body)

/-! ## Encoding -/

/-- The canonical word of a command: the ignored bits are 0 (R90). The pin and the observations have no word. -/
def BoundaryOp.word (o : BoundaryOp) : Option OpWord :=
  match o with
  | .hwreset    => none
  | .reset      => some 0x20000#18
  | .feed w     => some (0x10000#18 ||| w.zeroExtend 18)
  | .idle       => some 0x00000#18
  | .isdone     => none
  | .getframe _ => none

/-- What is presented at the ports to issue a boundary operation (R83, R94). -/
def BoundaryOp.encode (o : BoundaryOp) : PortEvent :=
  match o with
  | .hwreset    => .clock true 0x00000#18
  | .reset      => .clock false 0x20000#18
  | .feed w     => .clock false (0x10000#18 ||| w.zeroExtend 18)
  | .idle       => .clock false 0x00000#18
  | .isdone     => .readDone
  | .getframe r => .readFrame r

/-- The boundary operations an instruction is issued as: its expansion, none for what has no encoding. -/
def Instr.expand (i : Instr) : List BoundaryOp :=
  match i.asTrace with
  | some t => t.expand
  | none   => []

/-- The port events that issue an instruction, in order. -/
def encode (i : Instr) : List PortEvent :=
  i.expand.map BoundaryOp.encode

/-- The encoding of a trace: its command words (R94). -/
def encodeWords (i : Instr) : List OpWord :=
  i.expand.filterMap BoundaryOp.word

/-- A command word as the bytes `decode` reads. -/
def encodeBytes (w : OpWord) : List Byte := threeBytes w.toNat

end Sys2Proof
end

