-- ==== Sys2Proof/Machine/State.lean ====
section
/-! DEFINITION. The state of OOKDEC (`10_state.md` R20 to R31), the model's own fields beside it, and the state after
the hardware reset (`70_reset_and_hazards.md` R210). -/

namespace Sys2Proof.Machine

/-- Why the machine stops. -/
inductive Fault where
  /-- Raised by RECBIT when POS addresses no byte of the buffer (R10 "0 <= a < CAP", R50). No run reaches it
  (R41). Safe: the model stops where the spec gives the access no meaning. Log entry 7. -/
  | addressOutsideBuffer
  deriving DecidableEq, Repr

/-- Why an instruction is refused. -/
inductive Refusal where
  /-- Raised by `exec` for an instruction without a meaning; no arm does. Safe. -/
  | notModelled (mnemonic : String)
  deriving DecidableEq, Repr

/-- STATE, in the order and with the codes of R88: UNKNOWN = 0, T0 = 1, T1 = 2, T2 = 3, T3 = 4, OK = 5, DONE = 6, and
the unused code 7. T1, T2, T3 and code 7 are reserved (R92); keeping them is DESIGN CHOICE, log entry 14. -/
inductive DecoderState where
  | unknown
  | t0
  | t1
  | t2
  | t3
  | ok
  | done
  | code7
  deriving DecidableEq, Repr

/-- DATA as address and byte pairs. Canonical form: `Memory.wf` of `Machine/Ops.lean`. -/
abbrev Memory := List Host.Cell

/-- What the consumer's reads returned (R214). -/
inductive Observation where
  /-- ISDONE (R111). -/
  | isDone (done : Bool)
  /-- GETFRAME, the whole frame: the count and the bytes below it (R112). -/
  | frame (count : BitVec 5) (bytes : List Byte)
  /-- GETFRAME, one access of the read port: the count, the address and the byte (R55). -/
  | port (count : BitVec 5) (rdAddr : RdAddr) (rdData : Byte)
  deriving DecidableEq, Repr

/-- The six pieces of state of R20, then the model's own three fields. -/
structure State where
  /-- STATE (R21). -/
  state     : DecoderState
  /-- FLIP (R22). -/
  flip      : BitVec 6
  /-- TOTAL_BITS (R23). -/
  totalBits : BitVec 8
  /-- BITS (R24). -/
  bits      : BitVec 3
  /-- POS (R25). -/
  pos       : BitVec 5
  /-- DATA (R26). -/
  data      : Memory
  /-- The model's own: what the agents will present at the ports, oldest first. Log entry 4. -/
  pending   : List PortEvent
  /-- The model's own: what the consumer has read so far, oldest first. Log entry 5. -/
  observed  : List Observation
  /-- The model's own: the number of the next draw of free values. Log entry 3. -/
  draws     : Nat
  deriving DecidableEq, Repr

/-- DATA after the hardware reset that took the given draw: every byte of the buffer unspecified (R210, U3). -/
def powerOnData (cap draw : Nat) : Memory :=
  (List.range cap).map fun a => (a, Config.powerOnByte draw a)

/-- The machine right after the hardware reset (R210): the registers at the values the rule states, DATA
unspecified. Nothing is pending and nothing has been observed (DESIGN CHOICE, log entries 4 and 5); draw 0 filled DATA
(DESIGN CHOICE, log entry 3). -/
def State.reset : State :=
  { state     := .unknown
    flip      := 0#6
    totalBits := 0#8
    bits      := 0#3
    pos       := 0#5
    data      := powerOnData Config.hw.cap 0
    pending   := []
    observed  := []
    draws     := 1 }

end Sys2Proof.Machine
end

