-- ==== Sys2Proof/Machine/Flags.lean ====
section
/-! DEFINITION. The two flags of OOKDEC (`10_state.md` R28), FLIP as a count (R22), and the tests on the counters
(`42_oregon_v3.md` R163). -/

namespace Sys2Proof.Machine

/-- The done flag: the predicate `STATE = DONE` (R28, R111). -/
def isDone (s : State) : Bool := decide (s.state = .done)

/-- The flip flag: bit 0 of FLIP (R28, R131). -/
def flipFlag (f : BitVec 6) : Bool := f.getLsbD 0

/-- `FLIP ^ zext_6(v)` (R131). -/
def toggleFlip (v : Bool) (f : BitVec 6) : BitVec 6 := f ^^^ (BitVec.ofBool v).zeroExtend 6

/-- `min(FLIP + 1, 32)`, clamped and never wrapping (R153, R163). A FLIP forced above 32 goes to 32: DEDUCED, log
entry 10. -/
def countLong (f : BitVec 6) : BitVec 6 := BitVec.ofNat 6 (min (f.toNat + 1) Config.preMin)

/-- `FLIP >= 32` (R154). -/
def preambleSeen (f : BitVec 6) : Bool := decide (Config.preMin ≤ f.toNat)

/-- `40 <= TOTAL_BITS <= 103` (R152). -/
def inShortBand (n : BitVec 8) : Bool :=
  decide (Config.shortLo ≤ n.toNat) && decide (n.toNat ≤ Config.shortHi)

/-- `TOTAL_BITS = 104` (R161). -/
def isFullFrame (n : BitVec 8) : Bool := decide (n.toNat = Config.fullBits)

end Sys2Proof.Machine
end

