-- ==== Sys2Proof/Machine/Operands.lean ====
section
/-! DEFINITION. The operand of FEED and its decode (`30_encoding.md` R86, R87; `42_oregon_v3.md` R150), and the one bit
operand of the micro-operations. -/

namespace Sys2Proof.Machine

/-- CLASSIFY w (R150). The comparisons are unsigned (R163). -/
def classify (w : Width) : PulseClass :=
  if w.toNat < Config.wMin ∨ Config.wMax ≤ w.toNat then .gap
  else if Config.wLong ≤ w.toNat then .long
  else .short

/-- The byte of the buffer after a bit has been shifted in at its top: `(b >> 1) | (v << 7)` (R51, R130). -/
def shiftIn (v : Bool) (b : Byte) : Byte :=
  (b >>> 1) ||| ((BitVec.ofBool v).zeroExtend 8 <<< 7)

end Sys2Proof.Machine
end

