-- ==== Sys2Proof/Machine/Ops.lean ====
section
/-! DEFINITION. The shared operations: the frame buffer, the reset effect (which is also the block's answer to every
exception), the bit accumulator (`41_bit_accumulator.md` R130 to R132) and completion (`40_engine_ops.md` R119). -/

namespace Sys2Proof.Machine

/-! ## The frame buffer (R50, R54, R55) -/

/-- `MemRead(a, 1)`; no value where the buffer has no such address. -/
def Memory.read (m : Memory) (a : Nat) : Option Byte :=
  match m with
  | []          => none
  | (k, b) :: m => if k = a then some b else Memory.read m a

/-- `MemWrite(a, 1, v)`; an address the buffer does not have is left alone. -/
def Memory.write (m : Memory) (a : Nat) (v : Byte) : Memory :=
  match m with
  | []          => []
  | (k, b) :: m => if k = a then (k, v) :: m else (k, b) :: Memory.write m a v

/-- The canonical form: exactly the addresses 0 to CAP-1, rising, each listed once (R50). An address that is not
listed is not in the buffer and reads as no value. -/
def Memory.wf (c : Config) (m : Memory) : Bool :=
  m.map Prod.fst == List.range c.cap

/-! ## Ending an operation -/

/-- The outcome of an operation of the block. -/
def finish (r : Except Fault State) : Host.Outcome State Fault Refusal :=
  match r with
  | .ok s    => .next s
  | .error f => .fault f

/-! ## The reset effect, and taking the one exception -/

/-- `do_reset()` (R114): five registers, DATA not written. -/
def doReset (s : State) : State :=
  { s with state := .unknown, flip := 0#6, totalBits := 0#8, bits := 0#3, pos := 0#5 }

/-- The labels of the causes of INVALID (R181). They are stored nowhere. -/
inductive InvalidCause where
  | gapCount
  | earlyShort
  | longInT0
  | reservedState
  deriving DecidableEq, Repr

/-- Taking the exception (R185): `do_reset()` and nothing else, whatever the cause; nothing is saved (R182). There is
no return operation (R187). -/
def takeInvalid (_cause : InvalidCause) (s : State) : State := doReset s

/-! ## The bit accumulator -/

/-- What RECBIT returns (R130). -/
inductive RecResult where
  | ok
  | overflow
  deriving DecidableEq, Repr

/-- RECBIT v (R130, R136): the byte is written even where the bit overflows the buffer (D10). The counters are incremented
at the widths of their registers: a TOTAL_BITS forced to 255, which no run reaches (R135), wraps to 0. DESIGN CHOICE, log
entry 17. -/
def recbit (c : Config) (v : Bool) (s : State) : Except Fault (RecResult × State) :=
  match Memory.read s.data s.pos.toNat with
  | none   => .error .addressOutsideBuffer
  | some b =>
    let s := { s with data      := Memory.write s.data s.pos.toNat (shiftIn v b)
                      totalBits := s.totalBits + 1#8 }
    if s.bits = 7#3 then
      if s.pos.toNat + 1 = c.cap then .ok (.overflow, doReset s)
      else .ok (.ok, { s with bits := 0#3, pos := s.pos + 1#5 })
    else .ok (.ok, { s with bits := s.bits + 1#3 })

/-- RECMAN v (R131): the updated flip flag is the stored bit. -/
def recman (c : Config) (v : Bool) (s : State) : Except Fault (RecResult × State) :=
  let f := toggleFlip v s.flip
  recbit c (flipFlag f) { s with flip := f }

/-- The loop of PAD, at most `fuel` turns. -/
def padLoop (c : Config) (fuel : Nat) (s : State) : Except Fault (RecResult × State) :=
  match fuel with
  | 0     => .ok (.ok, s)
  | n + 1 =>
    if s.bits = 0#3 then .ok (.ok, s)
    else
      match recbit c false s with
      | .error f           => .error f
      | .ok (.overflow, s) => .ok (.overflow, s)
      | .ok (.ok, s)       => padLoop c n s

/-- PAD (R132): at most 7 turns, since BITS has 3 bits. -/
def pad (c : Config) (s : State) : Except Fault (RecResult × State) := padLoop c 7 s

/-- The answer to COMPLETE (R119): PAD, then `STATE <- DONE`. After an overflow STATE is not written (R130 "the caller
sees overflow and must not write STATE afterwards", R188). DEDUCED, log entry 8. -/
def complete (c : Config) (s : State) : Except Fault State :=
  match pad c s with
  | .error f           => .error f
  | .ok (.overflow, s) => .ok s
  | .ok (.ok, s)       => .ok { s with state := .done }

end Sys2Proof.Machine
end

