-- ==== Sys2Proof/Machine/Accumulator.lean ====
section
/-! DEFINITION. The meanings of the internal micro-operations (`41_bit_accumulator.md` R130 to R132,
`40_engine_ops.md` R114). Nothing outside the block invokes them (R80): the decoder never gives them. What they return
to their caller is dropped here (DESIGN CHOICE, log entry 13); the caller inside FEED reads it from the shared
operation. -/

namespace Sys2Proof.Machine

/-- The state a micro-operation leaves. -/
def stateOf (r : Except Fault (RecResult × State)) : Except Fault State :=
  match r with
  | .error f   => .error f
  | .ok (_, s) => .ok s

/-- RECBIT v (R130). -/
def execRecbit (v : Bool) (s : State) : Host.Outcome State Fault Refusal :=
  finish (stateOf (recbit Config.hw v s))

/-- RECMAN v (R131). -/
def execRecman (v : Bool) (s : State) : Host.Outcome State Fault Refusal :=
  finish (stateOf (recman Config.hw v s))

/-- PAD (R132). -/
def execPad (s : State) : Host.Outcome State Fault Refusal :=
  finish (stateOf (pad Config.hw s))

/-- do_reset (R114). -/
def execDoReset (s : State) : Host.Outcome State Fault Refusal := .next (doReset s)

end Sys2Proof.Machine
end

