-- ==== Sys2Proof/Machine/Ports.lean ====
section
/-! DEFINITION. The outputs of the block (`30_encoding.md` R84, R85, R88) and what the consumer's reads return
(`40_engine_ops.md` R111, R112; `93_implementation_defined.md` U1, U2, U4). -/

namespace Sys2Proof.Machine

/-- The code of STATE on `dbg_state` (R88). -/
def DecoderState.code (d : DecoderState) : BitVec 3 :=
  match d with
  | .unknown => 0
  | .t0      => 1
  | .t1      => 2
  | .t2      => 3
  | .t3      => 4
  | .ok      => 5
  | .done    => 6
  | .code7   => 7

/-- The output ports (R81). -/
structure Outputs where
  done         : Bool
  count        : BitVec 5
  rdData       : Byte
  dbgState     : BitVec 3
  dbgFlip      : BitVec 6
  dbgTotalBits : BitVec 8
  deriving DecidableEq, Repr

/-- `rd_data`: `DATA[rd_addr]`, and a free byte where the buffer has no such address (R55, R85, U4). -/
def rdData (s : State) (a : RdAddr) : Byte :=
  match Memory.read s.data a.toNat with
  | some b => b
  | none   => Config.freeByte s.draws a.toNat

/-- The outputs, functions of the state and of `rd_addr` (R84, R85). -/
def outputs (s : State) (a : RdAddr) : Outputs :=
  { done         := isDone s
    count        := s.pos
    rdData       := rdData s a
    dbgState     := s.state.code
    dbgFlip      := s.flip
    dbgTotalBits := s.totalBits }

/-- The count GETFRAME returns: POS while STATE = DONE (R112), a free value otherwise (U1). -/
def frameCount (s : State) : BitVec 5 :=
  if isDone s then s.pos else Config.freeCount s.draws

/-- The byte GETFRAME returns for an address: the byte of the frame while STATE = DONE and the address is below
`count` (R57, R112), a free value otherwise (U1, U2, U4). -/
def frameByte (s : State) (a : RdAddr) : Byte :=
  if isDone s && decide (a.toNat < s.pos.toNat) then rdData s a
  else Config.freeByte s.draws a.toNat

/-- The bytes GETFRAME returns, addresses 0 to count-1 (R112). -/
def frameBytesOf (s : State) : List Byte :=
  (List.range (frameCount s).toNat).map fun a => frameByte s (BitVec.ofNat 5 a)

/-- What a GETFRAME returns. -/
def frameObservation (r : FrameRead) (s : State) : Observation :=
  match r with
  | .whole    => .frame (frameCount s) (frameBytesOf s)
  | .byteAt a => .port (frameCount s) a (frameByte s a)

end Sys2Proof.Machine
end

