-- ==== Sys2Proof/Machine/Protocol.lean ====
section
/-! DEFINITION. The protocol step DECODE_V3 (`42_oregon_v3.md` R151 to R161), what FEED does with its outcome
(`40_engine_ops.md` R110), and the meanings of the lines of the step map (`30_encoding.md` R89). -/

namespace Sys2Proof.Machine

/-! ## The branches of the state machine -/

/-- UNKNOWN, LONG (R153). -/
def countPreamble (s : State) : State := { s with flip := countLong s.flip }

/-- Recording a Manchester bit and then writing STATE; after an overflow STATE is not written (R136). -/
def recordThen (c : Config) (v : Bool) (d : DecoderState) (s : State) : Except Fault State :=
  match recman c v s with
  | .error f           => .error f
  | .ok (.overflow, s) => .ok s
  | .ok (.ok, s)       => .ok { s with state := d }

/-- UNKNOWN, SHORT with the preamble seen (R154). -/
def preambleFound (c : Config) (s : State) : Except Fault State :=
  recordThen c true .ok { s with flip := 1#6 }

/-- OK, SHORT (R156). -/
def firstHalf (s : State) : State := { s with state := .t0 }

/-- OK, LONG: the bit is recorded and STATE is not written (R157). -/
def recordToggle (c : Config) (s : State) : Except Fault State :=
  match recman c true s with
  | .error f   => .error f
  | .ok (_, s) => .ok s

/-- T0, SHORT (R158). -/
def secondHalf (c : Config) (s : State) : Except Fault State :=
  recordThen c false .ok s

/-! ## The step -/

/-- The outcome of the protocol step (R12). -/
inductive StepOutcome where
  | invalid (cause : InvalidCause)
  | complete
  | continues
  deriving DecidableEq, Repr

/-- The gap rule (R152). -/
def gapOutcome (s : State) : StepOutcome :=
  if inShortBand s.totalBits then .complete else .invalid .gapCount

/-- The full-frame test, on the state a branch leaves (R161). -/
def fullFrameTest (s : State) : StepOutcome × State :=
  if isFullFrame s.totalBits then (.complete, s) else (.continues, s)

/-- The full-frame test after a branch that records a bit. -/
def thenFullFrameTest (r : Except Fault State) : Except Fault (StepOutcome × State) :=
  match r with
  | .error f => .error f
  | .ok s    => .ok (fullFrameTest s)

/-- DECODE_V3 (R151). It is called with STATE not DONE; R151's `case` has no branch for DONE. -/
def decodeV3 (c : Config) (p : PulseClass) (s : State) : Except Fault (StepOutcome × State) :=
  match p, s.state with
  | .gap,   _        => .ok (gapOutcome s, s)
  | .long,  .unknown => .ok (fullFrameTest (countPreamble s))
  | .short, .unknown => if preambleSeen s.flip then thenFullFrameTest (preambleFound c s)
                        else .ok (.invalid .earlyShort, s)
  | .short, .ok      => .ok (fullFrameTest (firstHalf s))
  | .long,  .ok      => thenFullFrameTest (recordToggle c s)
  | .short, .t0      => thenFullFrameTest (secondHalf c s)
  | .long,  .t0      => .ok (.invalid .longInT0, s)
  | _,      .t1      => .ok (.invalid .reservedState, s)
  | _,      .t2      => .ok (.invalid .reservedState, s)
  | _,      .t3      => .ok (.invalid .reservedState, s)
  | _,      .code7   => .ok (.invalid .reservedState, s)
  | _,      .done    => .ok (fullFrameTest s)

/-- What the engine does with the outcome (R110). -/
def respond (c : Config) (r : Except Fault (StepOutcome × State)) : Except Fault State :=
  match r with
  | .error f                => .error f
  | .ok (.invalid cause, s) => .ok (takeInvalid cause s)
  | .ok (.complete, s)      => complete c s
  | .ok (.continues, s)     => .ok s

/-- FEED w (R110, R118). -/
def feed (c : Config) (w : Width) (s : State) : Except Fault State :=
  if isDone s then .ok s else respond c (decodeV3 c (classify w) s)

/-! ## The lines of the step map (R89)

A line has its effect where it is selected by STATE, the class and the extra condition. Issued where it is not
selected it has none: in the map "the first matching line applies", and a line that does not match contributes nothing.
DESIGN CHOICE, log entry 9. -/

/-- A line of the map: its effect where it is selected. -/
def whenSelected (selected : Bool) (effect : Except Fault State) (s : State) : Host.Outcome State Fault Refusal :=
  if selected then finish effect else .next s

/-- A state the V3 variant gives no rule (R92). -/
def isReserved (d : DecoderState) : Bool :=
  match d with
  | .unknown => false
  | .t0      => false
  | .t1      => true
  | .t2      => true
  | .t3      => true
  | .ok      => false
  | .done    => false
  | .code7   => true

/-- STEP.DONE_ANY (R118): a no-op where it is selected; where it is not, it changes nothing (log entry 9). -/
def execStepDoneAny (_p : PulseClass) (s : State) : Host.Outcome State Fault Refusal :=
  whenSelected (isDone s) (.ok s) s

/-- STEP.GAP_COMPLETE (R152, R119). -/
def execStepGapComplete (s : State) : Host.Outcome State Fault Refusal :=
  whenSelected (!isDone s && inShortBand s.totalBits) (complete Config.hw s) s

/-- STEP.GAP_INVALID (R152). -/
def execStepGapInvalid (s : State) : Host.Outcome State Fault Refusal :=
  whenSelected (!isDone s && !inShortBand s.totalBits) (.ok (takeInvalid .gapCount s)) s

/-- STEP.UNKNOWN_LONG (R153). -/
def execStepUnknownLong (s : State) : Host.Outcome State Fault Refusal :=
  whenSelected (decide (s.state = .unknown)) (.ok (countPreamble s)) s

/-- STEP.UNKNOWN_SHORT_SYNC (R154). -/
def execStepUnknownShortSync (s : State) : Host.Outcome State Fault Refusal :=
  whenSelected (decide (s.state = .unknown) && preambleSeen s.flip) (preambleFound Config.hw s) s

/-- STEP.UNKNOWN_SHORT_EARLY (R155). -/
def execStepUnknownShortEarly (s : State) : Host.Outcome State Fault Refusal :=
  whenSelected (decide (s.state = .unknown) && !preambleSeen s.flip) (.ok (takeInvalid .earlyShort s)) s

/-- STEP.OK_SHORT (R156). -/
def execStepOkShort (s : State) : Host.Outcome State Fault Refusal :=
  whenSelected (decide (s.state = .ok)) (.ok (firstHalf s)) s

/-- STEP.OK_LONG (R157). -/
def execStepOkLong (s : State) : Host.Outcome State Fault Refusal :=
  whenSelected (decide (s.state = .ok)) (recordToggle Config.hw s) s

/-- STEP.T0_SHORT (R158). -/
def execStepT0Short (s : State) : Host.Outcome State Fault Refusal :=
  whenSelected (decide (s.state = .t0)) (secondHalf Config.hw s) s

/-- STEP.T0_LONG (R159). -/
def execStepT0Long (s : State) : Host.Outcome State Fault Refusal :=
  whenSelected (decide (s.state = .t0)) (.ok (takeInvalid .longInT0 s)) s

/-- STEP.RESERVED, for an in-window pulse (R160). -/
def execStepReserved (p : PulseClass) (s : State) : Host.Outcome State Fault Refusal :=
  whenSelected (decide (p ≠ .gap) && isReserved s.state) (.ok (takeInvalid .reservedState s)) s

/-- STEP.FULL_FRAME, on the state the branch of an in-window pulse has left (R161, R119). -/
def execStepFullFrame (p : PulseClass) (s : State) : Host.Outcome State Fault Refusal :=
  whenSelected (decide (p ≠ .gap) && (!isDone s && isFullFrame s.totalBits)) (complete Config.hw s) s

end Sys2Proof.Machine
end

