-- ==== Sys2Proof/Machine/Engine.lean ====
section
/-! DEFINITION. The operations at the boundary (`40_engine_ops.md` R110 to R116), for every admitted configuration,
and the meanings of their rows. -/

namespace Sys2Proof.Machine

/-- HWRESET (R116, R210): the registers of `do_reset()`, every byte of DATA unspecified. -/
def hwreset (c : Config) (s : State) : State :=
  { doReset s with data := powerOnData c.cap s.draws, draws := s.draws + 1 }

/-- ISDONE (R111): the consumer reads `done`; the block does not change. -/
def readDone (s : State) : State :=
  { s with observed := s.observed ++ [.isDone (isDone s)] }

/-- GETFRAME (R112): the consumer reads `count` and the bytes; the block does not change. Each read takes a fresh draw
of the free values, whether or not it shows one (U1 "drawn afresh at each read"). -/
def readFrame (r : FrameRead) (s : State) : State :=
  { s with observed := s.observed ++ [frameObservation r s], draws := s.draws + 1 }

/-- One boundary operation on the block built with the given configuration (R60: one indivisible transition). -/
def perform (c : Config) (o : BoundaryOp) (s : State) : Host.Outcome State Fault Refusal :=
  match o with
  | .hwreset    => .next (hwreset c s)
  | .reset      => .next (doReset s)
  | .feed w     => finish (feed c w s)
  | .idle       => .next s
  | .isdone     => .next (readDone s)
  | .getframe r => .next (readFrame r s)

/-- The boolean FEED returns: `done` after the clock edge that executed it (R117). -/
def feedResult (after : State) : Bool := isDone after

/-! ## The rows of the table -/

/-- RESET (R113). -/
def execReset (s : State) : Host.Outcome State Fault Refusal := perform Config.hw .reset s

/-- FEED w (R110). -/
def execFeed (w : Width) (s : State) : Host.Outcome State Fault Refusal := perform Config.hw (.feed w) s

/-- IDLE (R115). -/
def execIdle (s : State) : Host.Outcome State Fault Refusal := perform Config.hw .idle s

/-- HWRESET (R116). -/
def execHwreset (s : State) : Host.Outcome State Fault Refusal := perform Config.hw .hwreset s

/-- ISDONE (R111). -/
def execIsdone (s : State) : Host.Outcome State Fault Refusal := perform Config.hw .isdone s

/-- GETFRAME (R112). -/
def execGetframe (r : FrameRead) (s : State) : Host.Outcome State Fault Refusal := perform Config.hw (.getframe r) s

/-! The four operand classes of FEED (R87): the words of FEED whose width lies in the class's range. -/

/-- FEED.GAP_LOW (R150). -/
def execFeedGapLow (w : Width) (s : State) : Host.Outcome State Fault Refusal := perform Config.hw (.feed w) s

/-- FEED.SHORT (R150). -/
def execFeedShort (w : Width) (s : State) : Host.Outcome State Fault Refusal := perform Config.hw (.feed w) s

/-- FEED.LONG (R150). -/
def execFeedLong (w : Width) (s : State) : Host.Outcome State Fault Refusal := perform Config.hw (.feed w) s

/-- FEED.GAP_HIGH (R150). -/
def execFeedGapHigh (w : Width) (s : State) : Host.Outcome State Fault Refusal := perform Config.hw (.feed w) s

end Sys2Proof.Machine
end

