-- ==== Sys2Proof/Machine/Trace.lean ====
section
/-! DEFINITION. The meanings of the pseudo-operations (`30_encoding.md` R94, R95): each runs the operations it stands
for, in order, each command in its own clock (DESIGN CHOICE, log entry 13). -/

namespace Sys2Proof.Machine

/-- Operations applied in order (R94); the first stop ends them. -/
def runOps (c : Config) (os : List BoundaryOp) (s : State) : Host.Outcome State Fault Refusal :=
  match os with
  | []      => .next s
  | o :: os =>
    match perform c o s with
    | .next s    => runOps c os s
    | .fault f   => .fault f
    | .refused r => .refused r

/-- LONG (R95). -/
def execLong (s : State) : Host.Outcome State Fault Refusal := runOps Config.hw Pseudo.long.expand s

/-- SHORT (R95). -/
def execShort (s : State) : Host.Outcome State Fault Refusal := runOps Config.hw Pseudo.short.expand s

/-- GAP (R95). -/
def execGap (s : State) : Host.Outcome State Fault Refusal := runOps Config.hw Pseudo.gap.expand s

/-- PREAMBLE n (R95). -/
def execPreamble (n : Nat) (s : State) : Host.Outcome State Fault Refusal :=
  runOps Config.hw (Pseudo.preamble n).expand s

/-- SYNC (R95). -/
def execSync (s : State) : Host.Outcome State Fault Refusal := runOps Config.hw Pseudo.sync.expand s

/-- TOGGLE (R95). -/
def execToggle (s : State) : Host.Outcome State Fault Refusal := runOps Config.hw Pseudo.toggle.expand s

/-- SAME (R95). -/
def execSame (s : State) : Host.Outcome State Fault Refusal := runOps Config.hw Pseudo.same.expand s

/-- FRAMEBITS (R95; ill-formed: log entry 16). -/
def execFrameBits (bs : List Bool) (s : State) : Host.Outcome State Fault Refusal :=
  runOps Config.hw (Pseudo.frameBits bs).expand s

/-- FRAMEBYTES (R95; ill-formed: log entry 16). -/
def execFrameBytes (hs : List Byte) (s : State) : Host.Outcome State Fault Refusal :=
  runOps Config.hw (Pseudo.frameBytes hs).expand s

/-- REP n, op (R94). -/
def execRep (n : Nat) (body : TraceOp) (s : State) : Host.Outcome State Fault Refusal :=
  runOps Config.hw (TraceOp.rep n body).expand s

end Sys2Proof.Machine
end

