-- ==== Sys2Proof/Machine/Dispatch.lean ====
section
/-! DEFINITION. One arm per row of the opcode table. -/

namespace Sys2Proof.Machine

def exec (i : Instr) (s : State) : Host.Outcome State Fault Refusal :=
  match i with
  -- commands, the reset pin, observations
  | .reset => Sys2Proof.Machine.execReset s
  | .feed w => Sys2Proof.Machine.execFeed w s
  | .idle => Sys2Proof.Machine.execIdle s
  | .hwreset => Sys2Proof.Machine.execHwreset s
  | .isdone => Sys2Proof.Machine.execIsdone s
  | .getframe r => Sys2Proof.Machine.execGetframe r s
  -- operand classes of FEED
  | .feedGapLow w => Sys2Proof.Machine.execFeedGapLow w s
  | .feedShort w => Sys2Proof.Machine.execFeedShort w s
  | .feedLong w => Sys2Proof.Machine.execFeedLong w s
  | .feedGapHigh w => Sys2Proof.Machine.execFeedGapHigh w s
  -- lines of the step map
  | .stepDoneAny p => Sys2Proof.Machine.execStepDoneAny p s
  | .stepGapComplete => Sys2Proof.Machine.execStepGapComplete s
  | .stepGapInvalid => Sys2Proof.Machine.execStepGapInvalid s
  | .stepUnknownLong => Sys2Proof.Machine.execStepUnknownLong s
  | .stepUnknownShortSync => Sys2Proof.Machine.execStepUnknownShortSync s
  | .stepUnknownShortEarly => Sys2Proof.Machine.execStepUnknownShortEarly s
  | .stepOkShort => Sys2Proof.Machine.execStepOkShort s
  | .stepOkLong => Sys2Proof.Machine.execStepOkLong s
  | .stepT0Short => Sys2Proof.Machine.execStepT0Short s
  | .stepT0Long => Sys2Proof.Machine.execStepT0Long s
  | .stepReserved p => Sys2Proof.Machine.execStepReserved p s
  | .stepFullFrame p => Sys2Proof.Machine.execStepFullFrame p s
  -- internal micro-operations
  | .recbit v => Sys2Proof.Machine.execRecbit v s
  | .recman v => Sys2Proof.Machine.execRecman v s
  | .pad => Sys2Proof.Machine.execPad s
  | .doReset => Sys2Proof.Machine.execDoReset s
  -- pseudo-operations
  | .long => Sys2Proof.Machine.execLong s
  | .short => Sys2Proof.Machine.execShort s
  | .gap => Sys2Proof.Machine.execGap s
  | .preamble n => Sys2Proof.Machine.execPreamble n s
  | .sync => Sys2Proof.Machine.execSync s
  | .toggle => Sys2Proof.Machine.execToggle s
  | .same => Sys2Proof.Machine.execSame s
  | .frameBits bs => Sys2Proof.Machine.execFrameBits bs s
  | .frameBytes hs => Sys2Proof.Machine.execFrameBytes hs s
  | .rep n body => Sys2Proof.Machine.execRep n body s

end Sys2Proof.Machine
end

