-- ==== Sys2Proof/Machine/Step.lean ====
section
/-! DEFINITION. One step of the machine: the next thing the agents present at the ports is decoded and executed
(`30_encoding.md` R83, `20_memory.md` R60). -/

namespace Sys2Proof.Machine

/-- What is presented next: the oldest pending event. With nothing pending the ports are quiet, an IDLE clock (R115,
R195). DESIGN CHOICE, log entry 4. -/
def nextInstr (s : State) : Instr :=
  match s.pending with
  | []     => .idle
  | e :: _ => e.decode.toInstr

/-- The state in which the presented event is no longer pending. -/
def State.taken (s : State) : State := { s with pending := s.pending.tail }

/-- One clock edge or one observation. -/
def step (s : State) : Host.Outcome State Fault Refusal :=
  exec (nextInstr s) s.taken

/-- The state in which a clock edge with the given operation word is presented next, before everything else that is
pending. `w` is numbered as the opcode table numbers its bits; the port has 18 wires. Log entry 4. -/
def State.withFetchWord (s : State) (nbits w : Nat) : State :=
  { s with pending := .clock false (BitVec.ofNat 18 (w % 2 ^ nbits)) :: s.pending }

end Sys2Proof.Machine
end

