-- ==== Sys2Proof/Safety.lean ====
section
/-! DEFINITION. What counts as a safe state and a safe run, and the terms claims about runs are stated in. -/

namespace Sys2Proof.Machine

/-! ## The invariants of every reachable state (`10_state.md` R40 to R47) -/

/-- The buffer is whole and POS addresses a byte of it (R41, R50). -/
def BufferOk (c : Config) (s : State) : Prop :=
  Memory.wf c s.data = true ∧ s.pos.toNat < c.cap

/-- `TOTAL_BITS = 8 * POS + BITS` (R40). -/
def CountersAgree (s : State) : Prop :=
  s.totalBits.toNat = 8 * s.pos.toNat + s.bits.toNat

/-- The bit recorded as number `n` of the attempt, read where the shifts have brought it (R51, R52): bit `n mod 8` of
`DATA[n div 8]` once that byte is whole, and `8 - BITS` places higher in the byte that is being filled. -/
def recordedBit (s : State) (n : Nat) : Option Bool :=
  (Memory.read s.data (n / 8)).map fun b =>
    b.getLsbD (if n / 8 < s.pos.toNat then n % 8 else 8 - s.bits.toNat + n % 8)

/-- The first bit of the attempt is 0, wherever in DATA[0] the shifts have brought it (R47). -/
def FirstBitZero (s : State) : Prop := recordedBit s 0 = some false

/-- The flip flag is the bit recorded last (R131, R137). -/
def LastBitIsFlip (s : State) : Prop :=
  recordedBit s (s.totalBits.toNat - 1) = some (flipFlag s.flip)

/-- STATE is OK or T0: an attempt is in progress (R44, R47, R137). -/
def MidAttempt (s : State) : Prop :=
  1 ≤ s.totalBits.toNat ∧ s.totalBits.toNat ≤ 103 ∧ s.flip.toNat ≤ 1 ∧ FirstBitZero s ∧ LastBitIsFlip s

/-- STATE is DONE: a frame of 5 to 13 whole bytes (R45, R47). -/
def FrameComplete (s : State) : Prop :=
  s.bits = 0#3 ∧ 40 ≤ s.totalBits.toNat ∧ s.totalBits.toNat ≤ 104 ∧ s.flip.toNat ≤ 1 ∧ FirstBitZero s

/-- What STATE says of the other registers; the reserved states are ruled out (R43 to R46). -/
def StateAgrees (s : State) : Prop :=
  match s.state with
  | .unknown => s.totalBits = 0#8 ∧ s.bits = 0#3 ∧ s.pos = 0#5
  | .ok      => MidAttempt s
  | .t0      => MidAttempt s
  | .done    => FrameComplete s
  | .t1      => False
  | .t2      => False
  | .t3      => False
  | .code7   => False

/-- The invariant: R40 to R47, FLIP at most 32 (R22), and the canonical form of DATA. -/
structure Inv (c : Config) (s : State) : Prop where
  buffer   : BufferOk c s
  flip     : s.flip.toNat ≤ 32
  counters : CountersAgree s
  agrees   : StateAgrees s

/-! ## Safe outcomes -/

/-- An outcome that stops nothing. -/
def SafeOutcome (o : Host.Outcome State Fault Refusal) : Prop := ∃ t, o = .next t

/-! ## Terms of claims -/

/-- The registers of the reset state (R32, R211). -/
def RegistersReset (s : State) : Prop :=
  s.state = .unknown ∧ s.flip = 0#6 ∧ s.totalBits = 0#8 ∧ s.bits = 0#3 ∧ s.pos = 0#5

/-- The model's own fields are the same: nothing presented, nothing read, nothing drawn. -/
def SameOutside (s t : State) : Prop :=
  t.pending = s.pending ∧ t.observed = s.observed ∧ t.draws = s.draws

/-- Every byte of memory reads as before but the one at the given address. -/
def SameBytesBut (a : Nat) (s t : State) : Prop :=
  ∀ k, k ≠ a → Memory.read t.data k = Memory.read s.data k

/-- Every byte of memory reads as before. -/
def SameBytes (s t : State) : Prop :=
  ∀ k, Memory.read t.data k = Memory.read s.data k

/-- A byte into which the bit has been shifted at the top (R51): `(b >> 1) | (v << 7)`. -/
def byteWithBit (v : Bool) (b : Byte) : Byte := (b >>> 1) ||| (if v then 0x80#8 else 0x00#8)

/-- The next recorded bit fits: it does not complete the last byte of the buffer (R136). -/
def HasRoom (c : Config) (s : State) : Prop := ¬ (s.bits = 7#3 ∧ s.pos.toNat + 1 = c.cap)

/-- One bit has been appended to the buffer whose byte at POS was `b` (R130): the byte, the count, the cursor; no other
byte, and nothing outside the block. STATE and FLIP are not spoken of. The counts are modulo the width of their registers
(DESIGN CHOICE, log entry 17). -/
def BitAppended (v : Bool) (b : Byte) (s t : State) : Prop :=
  Memory.read t.data s.pos.toNat = some (byteWithBit v b) ∧
  t.totalBits = s.totalBits + 1#8 ∧
  (if s.bits = 7#3 then t.bits = 0#3 ∧ t.pos = s.pos + 1#5 else t.bits = s.bits + 1#3 ∧ t.pos = s.pos) ∧
  SameBytesBut s.pos.toNat s t ∧ SameOutside s t

/-- The overflow of a recorded bit (R136): the byte at POS is written, then the reset. -/
def BitOverflowed (v : Bool) (b : Byte) (s t : State) : Prop :=
  Memory.read t.data s.pos.toNat = some (byteWithBit v b) ∧ RegistersReset t ∧
  SameBytesBut s.pos.toNat s t ∧ SameOutside s t

/-- The partial byte at POS, which was `b`, has been filled with zero bits at its top (R134): the byte, the count, the
cursor; no other byte, and nothing outside the block. STATE and FLIP are not spoken of. The counts are modulo the width of
their registers (DESIGN CHOICE, log entry 17). -/
def PartialFilled (b : Byte) (s t : State) : Prop :=
  Memory.read t.data s.pos.toNat = some (b >>> (8 - s.bits.toNat)) ∧
  t.totalBits = s.totalBits + BitVec.ofNat 8 (8 - s.bits.toNat) ∧ t.bits = 0#3 ∧ t.pos = s.pos + 1#5 ∧
  SameBytesBut s.pos.toNat s t ∧ SameOutside s t

/-- Filling the partial byte has overflowed the buffer (R136): the byte at POS is written, then the reset. -/
def PartialOverflowed (b : Byte) (s t : State) : Prop :=
  Memory.read t.data s.pos.toNat = some (b >>> (8 - s.bits.toNat)) ∧ RegistersReset t ∧
  SameBytesBut s.pos.toNat s t ∧ SameOutside s t

/-- The block's registers and memory are the same. -/
def SameBlock (s t : State) : Prop :=
  t.state = s.state ∧ t.flip = s.flip ∧ t.totalBits = s.totalBits ∧ t.bits = s.bits ∧ t.pos = s.pos ∧ t.data = s.data

/-- STATE after a FEED, the table of R162. -/
def stateAfterFeed (p : PulseClass) (s : State) : DecoderState :=
  match p, s.state with
  | _,      .done    => .done
  | .gap,   _        => if 40 ≤ s.totalBits.toNat ∧ s.totalBits.toNat ≤ 103 then .done else .unknown
  | .short, .unknown => if 32 ≤ s.flip.toNat then .ok else .unknown
  | .long,  .unknown => .unknown
  | .short, .ok      => .t0
  | .long,  .ok      => if s.totalBits.toNat = 103 then .done else .ok
  | .short, .t0      => if s.totalBits.toNat = 103 then .done else .ok
  | .long,  .t0      => .unknown
  | _,      .t1      => .unknown
  | _,      .t2      => .unknown
  | _,      .t3      => .unknown
  | _,      .code7   => .unknown

/-- Two blocks, perhaps of different CAP and with different stale bytes, that have received the same attempt: equal
registers and equal recorded bits (R30). -/
def SameAttempt (s t : State) : Prop :=
  s.state = t.state ∧ s.flip = t.flip ∧ s.totalBits = t.totalBits ∧ s.bits = t.bits ∧ s.pos = t.pos ∧
    ∀ n, n < s.totalBits.toNat → recordedBit s n = recordedBit t n

/-- Instructions executed one after the other; the first stop ends them. -/
def runInstrs (is : List Instr) (s : State) : Host.Outcome State Fault Refusal :=
  match is with
  | []      => .next s
  | i :: is =>
    match exec i s with
    | .next s    => runInstrs is s
    | .fault f   => .fault f
    | .refused r => .refused r

/-- The complete map of FEED as a table (R89): which lines an in-state pulse of a class goes through. After a SHORT or
LONG line that is not INVALID comes the full-frame test. -/
def mapLines (p : PulseClass) (s : State) : List Instr :=
  match p, s.state with
  | p,      .done    => [.stepDoneAny p]
  | .gap,   _        => if inShortBand s.totalBits then [.stepGapComplete] else [.stepGapInvalid]
  | .long,  .unknown => [.stepUnknownLong, .stepFullFrame .long]
  | .short, .unknown => if preambleSeen s.flip then [.stepUnknownShortSync, .stepFullFrame .short]
                        else [.stepUnknownShortEarly]
  | .short, .ok      => [.stepOkShort, .stepFullFrame .short]
  | .long,  .ok      => [.stepOkLong, .stepFullFrame .long]
  | .short, .t0      => [.stepT0Short, .stepFullFrame .short]
  | .long,  .t0      => [.stepT0Long]
  | p,      .t1      => [.stepReserved p]
  | p,      .t2      => [.stepReserved p]
  | p,      .t3      => [.stepReserved p]
  | p,      .code7   => [.stepReserved p]

/-- A pulse that the block answers with INVALID (R181), OVERFLOW apart. -/
def PulseInvalid (w : Width) (s : State) : Prop :=
  match classify w, s.state with
  | _,      .done    => False
  | .gap,   _        => inShortBand s.totalBits = false
  | .short, .unknown => preambleSeen s.flip = false
  | .long,  .unknown => False
  | _,      .ok      => False
  | .short, .t0      => False
  | .long,  .t0      => True
  | _,      .t1      => True
  | _,      .t2      => True
  | _,      .t3      => True
  | _,      .code7   => True

end Sys2Proof.Machine
end

