-- ==== Sys2Proof/Certificates/Slice0/Obligations.lean ====
section
/-! DEFINITION. The statements about OOKDEC. Each docstring names the rule of `spec/` it formalises. -/

open Sys2Proof Sys2Proof.Machine

/-! ## Decoding and encoding -/

/-- R83: `hwreset`, then bit 17, then bit 16 decide; the width is bits 15 to 0. -/
def Obligations.DecodeFollowsPriority : Prop :=
  ∀ w : OpWord,
    (PortEvent.clock true w).decode = .hwreset ∧
    (w.getLsbD 17 = true → (PortEvent.clock false w).decode = .reset) ∧
    (w.getLsbD 17 = false → w.getLsbD 16 = true →
      (PortEvent.clock false w).decode = .feed (w.extractLsb' 0 16)) ∧
    (w.getLsbD 17 = false → w.getLsbD 16 = false → (PortEvent.clock false w).decode = .idle)

/-- R96: the worked encodings of single words. -/
def Obligations.WorkedWordsDecode : Prop :=
  ([199, 200, 699, 700, 1199, 1200, 150, 300, 650, 0, 65535] : List Nat).map
      (fun w => encodeWords (.feed (BitVec.ofNat 16 w))) =
    [[0x100C7#18], [0x100C8#18], [0x102BB#18], [0x102BC#18], [0x104AF#18], [0x104B0#18], [0x10096#18],
     [0x1012C#18], [0x1028A#18], [0x10000#18], [0x1FFFF#18]] ∧
  ([0x100C7, 0x102BC, 0x104AF, 0x1FFFF, 0x30384, 0x00384] : List Nat).map (decodeTableWord 24) =
    [some (.feed 199), some (.feed 700), some (.feed 1199), some (.feed 65535), some .reset, some .idle]

/-- R90: every 18-bit word decodes; three bytes (the model's layout, log entry 11) with a bit above bit 17 set are no
word, nor is any other number of bytes. -/
def Obligations.EveryWordDecodes : Prop :=
  (∀ w : OpWord, decode (encodeBytes w) = .ok (decodeWord w).toInstr) ∧
  (∀ b0 b1 b2 : Byte, 4 ≤ b2.toNat → decode [b0, b1, b2] = .error .widerThanEighteenBits) ∧
  (∀ bytes : List Byte, bytes.length ≠ 3 → decode bytes = .error .notThreeBytes)

/-- R82, R83, R90, R94: the decoder gives back every operation of the boundary, with every operand, from its port event
and, for a command, from its word; and a FEED word is the encoding of what it decodes to, so no bit of it is dropped. -/
def Obligations.DecodeOfEncode : Prop :=
  (∀ i : Instr, WellFormed i = true → (encode i).map PortEvent.decode = i.expand) ∧
  (∀ o : BoundaryOp, o.encode.decode = o ∧ encode o.toInstr = [o.encode]) ∧
  (∀ (o : BoundaryOp) (w : OpWord), o.word = some w →
    decode (encodeBytes w) = .ok o.toInstr ∧ decodeTableWord 24 w.toNat = some o.toInstr) ∧
  (∀ (x : OpWord) (w : Width), decodeWord x = .feed w → (BoundaryOp.feed w).word = some x)

/-! ## One step -/

/-- R60, R83: a step decodes what is presented next and executes it; with nothing presented it is an IDLE clock (the
model's choice, log entry 4). -/
def Obligations.StepRunsDecodedInstr : Prop :=
  ∀ s : State,
    (∀ e rest, s.pending = e :: rest → step s = exec e.decode.toInstr { s with pending := rest }) ∧
    (s.pending = [] → step s = exec .idle s)

/-- A word placed at the port is decoded and executed by the very next step, whatever else is pending. -/
def Obligations.PlacedWordRunsNext : Prop :=
  ∀ (s : State) (w : Nat), w < 2 ^ 18 →
    ∃ i, decodeTableWord 24 w = some i ∧ step (s.withFetchWord 24 w) = exec i s

/-- R94: an instruction that can stand in a trace, pseudo-operations and REP among them, is as many steps as its
encoding has port events, and those steps are its meaning. For an operand-class row outside its range and an
ill-formed FRAMEBITS or FRAMEBYTES this is the model's choice (DESIGN CHOICE, log entries 9 and 16). -/
def Obligations.TraceRunsStepByStep : Prop :=
  ∀ (i : Instr) (s : State), i.asTrace.isSome = true →
    Host.Core.run Sys2Proof.core (encode i).length { s with pending := encode i ++ s.pending } = exec i s

/-! ## Invariants -/

/-- R210: the reset state has the registers the rule states and meets the invariant. -/
def Obligations.ResetMeetsInvariant : Prop :=
  RegistersReset State.reset ∧ Inv Config.hw State.reset

/-- R40 to R47: every step keeps the invariant. -/
def Obligations.StepKeepsInvariant : Prop :=
  ∀ s t : State, Inv Config.hw s → step s = .next t → Inv Config.hw t

/-- R7, R42, R66: at every admitted CAP, from a state with the invariant, every operation of the boundary completes and
keeps the invariant. -/
def Obligations.EveryAdmittedCapRuns : Prop :=
  ∀ (c : Config) (o : BoundaryOp) (s : State), Inv c s → ∃ t, perform c o s = .next t ∧ Inv c t

/-- R42: with an admitted CAP at most 104 bits are recorded, the cursor is at most 13, and no recording and no padding
that FEED asks for overflows. -/
def Obligations.OverflowIsDeadLogic : Prop :=
  ∀ (c : Config) (s : State), Inv c s →
    s.totalBits.toNat ≤ 104 ∧ s.pos.toNat ≤ 13 ∧ s.pos.toNat < c.cap ∧
    (∀ v r t, s.state ≠ .done → recman c v s = .ok (r, t) → r = .ok) ∧
    (∀ r t, inShortBand s.totalBits = true → pad c s = .ok (r, t) → r = .ok)

/-- With POS in a whole buffer every instruction of the table completes and leaves POS in a whole buffer (R41, R66).
That a line of the map completes where it is not selected, and an operand-class row outside its range, is the model's
choice (DESIGN CHOICE, log entry 9), and so is that an ill-formed FRAMEBITS or FRAMEBYTES does (DESIGN CHOICE, log
entry 16). -/
def Obligations.EveryInstructionCompletes : Prop :=
  ∀ (i : Instr) (s : State), BufferOk Config.hw s → ∃ t, exec i s = .next t ∧ BufferOk Config.hw t

/-- Every instruction that can stand in a trace completes and keeps the invariant, REP with any body among them. For
an operand-class row outside its range and an ill-formed FRAMEBITS or FRAMEBYTES this is the model's choice (DESIGN
CHOICE, log entries 9 and 16). -/
def Obligations.TraceOperationsKeepInvariant : Prop :=
  ∀ (i : Instr) (s : State), i.asTrace.isSome = true → Inv Config.hw s →
    ∃ t, exec i s = .next t ∧ Inv Config.hw t

/-! ## RESET, HWRESET, IDLE, the observations -/

/-- R114, R113: RESET is the reset effect: five registers, DATA not written; do_reset is the same effect. The source says
"all counters"; that FLIP is one of them, and so ends 0, is the spec's own reading, its decision D7. -/
def Obligations.ResetClearsRegistersKeepsData : Prop :=
  ∀ s : State, exec .doReset s = exec .reset s ∧
    ∃ t, exec .reset s = .next t ∧ RegistersReset t ∧ t.data = s.data ∧ SameOutside s t

/-- R212: RESET twice is RESET once, and so is RESET followed by any mixture of RESETs and pulses that are INVALID in the
reset state; HWRESET twice leaves the registers HWRESET leaves (those of R210, which
rest on the spec's decisions D14 and, for FLIP, D7). -/
def Obligations.ResetIsIdempotent : Prop :=
  ∀ s : State,
    runInstrs [.reset, .reset] s = exec .reset s ∧
    (∀ is : List Instr, (∀ i ∈ is, i = .reset ∨ ∃ w, i = .feed w ∧ classify w ≠ .long) →
      runInstrs (.reset :: is) s = exec .reset s) ∧
    ∃ t, runInstrs [.hwreset, .hwreset] s = .next t ∧ RegistersReset t

/-- R116, R210: HWRESET leaves the registers RESET leaves and a whole buffer, each of whose bytes holds some value (which
one is free, log entry 2). -/
def Obligations.HwresetClearsRegisters : Prop :=
  ∀ s : State, ∃ t, exec .hwreset s = .next t ∧ RegistersReset t ∧ Memory.wf Config.hw t.data = true ∧
    t.pending = s.pending ∧ t.observed = s.observed

/-- R115: IDLE changes nothing in any state, nor does any number of IDLE clocks. The line STEP.DONE_ANY changes nothing
either: in DONE, where it is selected, by R118; outside DONE, where it is not, by the model's choice (DESIGN CHOICE, log
entry 9). -/
def Obligations.IdleChangesNothing : Prop :=
  ∀ (s : State) (n : Nat) (p : PulseClass),
    exec .idle s = .next s ∧ exec (.rep n (.op .idle)) s = .next s ∧ exec (.stepDoneAny p) s = .next s

/-- R111: ISDONE answers true iff STATE = DONE and changes nothing of the block. -/
def Obligations.IsdoneReadsDoneFlag : Prop :=
  ∀ s : State, ∃ t, exec .isdone s = .next t ∧ SameBlock s t ∧ t.pending = s.pending ∧ t.draws = s.draws ∧
    ∃ d, t.observed = s.observed ++ [.isDone d] ∧ (d = true ↔ s.state = .done)

/-- R112, R55, R57: in DONE, GETFRAME returns POS and the bytes at 0 to POS-1, and an access of the read port below the
count returns the count and the byte; the block does not change. -/
def Obligations.GetframeReturnsFrame : Prop :=
  ∀ s : State, BufferOk Config.hw s → s.state = .done →
    (∃ t bytes, exec (.getframe .whole) s = .next t ∧ SameBlock s t ∧ t.pending = s.pending ∧
      t.observed = s.observed ++ [.frame s.pos bytes] ∧ bytes.length = s.pos.toNat ∧
      ∀ a, a < s.pos.toNat → bytes[a]? = Memory.read s.data a) ∧
    (∀ (a : RdAddr) (b : Byte), a.toNat < s.pos.toNat → Memory.read s.data a.toNat = some b →
      ∃ t, exec (.getframe (.byteAt a)) s = .next t ∧ SameBlock s t ∧ t.pending = s.pending ∧
        t.observed = s.observed ++ [.port s.pos a b])

/-- R55, R112: in every state GETFRAME completes and changes nothing of the block; the consumer gets one answer. What the
answer holds outside a frame is free (U1, U2, U4; log entry 3). -/
def Obligations.GetframeChangesNothing : Prop :=
  ∀ (s : State) (r : FrameRead), ∃ t o, exec (.getframe r) s = .next t ∧ SameBlock s t ∧ t.pending = s.pending ∧
    t.observed = s.observed ++ [o]

/-- R85, R84, R88: the outputs are functions of the state; `dbg_state` has the codes in the order of the list. -/
def Obligations.OutputsShowState : Prop :=
  (∀ (s : State) (a : RdAddr),
    ((outputs s a).done = true ↔ s.state = .done) ∧ (outputs s a).count = s.pos ∧
    (∀ b, Memory.read s.data a.toNat = some b → (outputs s a).rdData = b) ∧
    (outputs s a).dbgState = s.state.code ∧ (outputs s a).dbgFlip = s.flip ∧
    (outputs s a).dbgTotalBits = s.totalBits) ∧
  [DecoderState.unknown, .t0, .t1, .t2, .t3, .ok, .done, .code7].map (fun d => d.code.toNat) = [0, 1, 2, 3, 4, 5, 6, 7]

/-! ## FEED -/

/-- R150, R87: the class of a width. -/
def Obligations.ClassifyTable : Prop :=
  ∀ w : Width,
    (w.toNat < 200 → classify w = .gap) ∧
    (200 ≤ w.toNat → w.toNat < 700 → classify w = .short) ∧
    (700 ≤ w.toNat → w.toNat < 1200 → classify w = .long) ∧
    (1200 ≤ w.toNat → classify w = .gap)

/-- R87, R95: the four operand-class rows are FEED on their ranges, their class is the one the row names, and any two
widths of one class have the same effect. -/
def Obligations.OperandClassesAreFeed : Prop :=
  ∀ (w x : Width) (s : State),
    (WellFormed (.feedGapLow w) = true → classify w = .gap ∧ exec (.feedGapLow w) s = exec (.feed w) s) ∧
    (WellFormed (.feedShort w) = true → classify w = .short ∧ exec (.feedShort w) s = exec (.feed w) s) ∧
    (WellFormed (.feedLong w) = true → classify w = .long ∧ exec (.feedLong w) s = exec (.feed w) s) ∧
    (WellFormed (.feedGapHigh w) = true → classify w = .gap ∧ exec (.feedGapHigh w) s = exec (.feed w) s) ∧
    (classify w = classify x → exec (.feed w) s = exec (.feed x) s)

/-- R89, R184: FEED is the map: it goes through the lines that STATE and the class select, and through the full-frame
test after an in-window line that is not INVALID. It holds in every state, reserved and overflowing ones among them. -/
def Obligations.FeedIsTheStepMap : Prop :=
  ∀ (w : Width) (s : State), exec (.feed w) s = runInstrs (mapLines (classify w) s) s

/-- R54, R110: FEED, and its four operand-class rows, complete wherever POS is in a whole buffer; of DATA only the
byte at the POS the FEED starts with can change, and nothing outside the block does. That an operand-class row outside
its range, which is not well-formed, runs as FEED is the model's choice (DESIGN CHOICE, log entry 9). -/
def Obligations.FeedCompletesWithFrame : Prop :=
  ∀ (w : Width) (s : State), BufferOk Config.hw s →
    ∀ i ∈ [Instr.feed w, .feedGapLow w, .feedShort w, .feedLong w, .feedGapHigh w],
      ∃ t, exec i s = .next t ∧ BufferOk Config.hw t ∧ SameBytesBut s.pos.toNat s t ∧ SameOutside s t

/-- R118: FEED in DONE changes nothing and its result is true. -/
def Obligations.FeedInDoneIsNoop : Prop :=
  ∀ (w : Width) (s : State), s.state = .done → exec (.feed w) s = .next s ∧ feedResult s = true

/-- R181, R185, R182: a pulse that is INVALID is answered by the reset, which is exactly what RESET does, and FEED's
result is false; the lines of the map say the same where they are selected. -/
def Obligations.InvalidPulseResets : Prop :=
  ∀ s : State, ∃ t, exec .reset s = .next t ∧ RegistersReset t ∧ t.data = s.data ∧ SameOutside s t ∧
    (∀ w, PulseInvalid w s → exec (.feed w) s = .next t ∧ feedResult t = false) ∧
    (s.state ≠ .done → ¬ (40 ≤ s.totalBits.toNat ∧ s.totalBits.toNat ≤ 103) → exec .stepGapInvalid s = .next t) ∧
    (s.state = .unknown → s.flip.toNat < 32 → exec .stepUnknownShortEarly s = .next t) ∧
    (s.state = .t0 → exec .stepT0Long s = .next t) ∧
    (∀ p, p ≠ .gap → (s.state = .t1 ∨ s.state = .t2 ∨ s.state = .t3 ∨ s.state = .code7) →
      exec (.stepReserved p) s = .next t)

/-- R152: outside DONE a gap with fewer than 40 bits recorded resets, whatever STATE is. -/
def Obligations.GapBelowFortyResets : Prop :=
  ∀ (w : Width) (s : State), s.state ≠ .done → (w.toNat < 200 ∨ 1200 ≤ w.toNat) → s.totalBits.toNat < 40 →
    ∃ t, exec (.feed w) s = .next t ∧ RegistersReset t ∧ t.data = s.data ∧ SameOutside s t

/-- R153: a LONG in UNKNOWN counts, saturating at 32, and changes nothing else (outside the states the full-frame test
would complete, which are not UNKNOWN, R43). -/
def Obligations.LongInUnknownCounts : Prop :=
  ∀ (w : Width) (s : State), s.state = .unknown →
    exec .stepUnknownLong s = .next { s with flip := BitVec.ofNat 6 (min (s.flip.toNat + 1) 32) } ∧
    (classify w = .long → s.totalBits.toNat ≠ 104 →
      exec (.feed w) s = .next { s with flip := BitVec.ofNat 6 (min (s.flip.toNat + 1) 32) })

/-- R154: a SHORT in UNKNOWN with the count at 32 finds the preamble: FLIP is set to 1 and RECMAN(1) records the bit
0, so the flip flag ends 0, and STATE is OK; the byte at POS, which is 0 on every run (R43), is shifted right once.
The line of the map says it in every state, the overflow of R136 included. A count that wraps, in states no run
reaches, is the model's choice (DESIGN CHOICE, log entry 17). -/
def Obligations.ShortAfterPreambleSynchronises : Prop :=
  ∀ (w : Width) (s : State) (b : Byte), s.state = .unknown → 32 ≤ s.flip.toNat →
    Memory.read s.data s.pos.toNat = some b →
    (HasRoom Config.hw s →
      ∃ t, exec .stepUnknownShortSync s = .next t ∧ t.state = .ok ∧ t.flip = 0#6 ∧ BitAppended false b s t) ∧
    (¬ HasRoom Config.hw s → ∃ t, exec .stepUnknownShortSync s = .next t ∧ BitOverflowed false b s t) ∧
    (Inv Config.hw s → classify w = .short →
      ∃ t, exec (.feed w) s = .next t ∧ t.state = .ok ∧ t.flip = 0#6 ∧ t.totalBits = 1#8 ∧ t.bits = 1#3 ∧
        t.pos = 0#5 ∧ Memory.read t.data 0 = some (b >>> 1) ∧ SameBytesBut 0 s t ∧ SameOutside s t)

/-- R156: a SHORT in OK is the first half of a bit: STATE becomes T0 and nothing else changes. -/
def Obligations.ShortInOkWaits : Prop :=
  ∀ (w : Width) (s : State), s.state = .ok →
    exec .stepOkShort s = .next { s with state := .t0 } ∧
    (classify w = .short → s.totalBits.toNat ≠ 104 → exec (.feed w) s = .next { s with state := .t0 })

/-- R157, R161: a LONG in OK toggles the flip flag and records it; STATE stays OK, and is DONE if the bit is the
104th. The line of the map does it without the full-frame test, in every state, the overflow of R136 included. A count
that wraps, in states no run reaches, is the model's choice (DESIGN CHOICE, log entry 17). -/
def Obligations.LongInOkRecordsToggle : Prop :=
  ∀ (w : Width) (s : State) (b : Byte), s.state = .ok → Memory.read s.data s.pos.toNat = some b →
    (HasRoom Config.hw s →
      ∃ t, exec .stepOkLong s = .next t ∧ t.state = .ok ∧ t.flip = s.flip ^^^ 1#6 ∧
        BitAppended (!s.flip.getLsbD 0) b s t) ∧
    (¬ HasRoom Config.hw s → ∃ t, exec .stepOkLong s = .next t ∧ BitOverflowed (!s.flip.getLsbD 0) b s t) ∧
    (Inv Config.hw s → classify w = .long →
      ∃ t, exec (.feed w) s = .next t ∧ t.state = (if s.totalBits.toNat = 103 then .done else .ok) ∧
        t.flip = s.flip ^^^ 1#6 ∧ BitAppended (!s.flip.getLsbD 0) b s t)

/-- R158, R161: a SHORT in T0 records the flip flag as it is and returns to OK, or to DONE if the bit is the 104th.
The line of the map does it without the full-frame test, in every state, the overflow of R136 included. A count that
wraps, in states no run reaches, is the model's choice (DESIGN CHOICE, log entry 17). -/
def Obligations.ShortInT0RecordsSame : Prop :=
  ∀ (w : Width) (s : State) (b : Byte), s.state = .t0 → Memory.read s.data s.pos.toNat = some b →
    (HasRoom Config.hw s →
      ∃ t, exec .stepT0Short s = .next t ∧ t.state = .ok ∧ t.flip = s.flip ∧ BitAppended (s.flip.getLsbD 0) b s t) ∧
    (¬ HasRoom Config.hw s → ∃ t, exec .stepT0Short s = .next t ∧ BitOverflowed (s.flip.getLsbD 0) b s t) ∧
    (Inv Config.hw s → classify w = .short →
      ∃ t, exec (.feed w) s = .next t ∧ t.state = (if s.totalBits.toNat = 103 then .done else .ok) ∧
        t.flip = s.flip ∧ BitAppended (s.flip.getLsbD 0) b s t)

/-- R152, R119, R134: a gap with 40 to 103 bits recorded completes the frame: the partial byte is filled with zero bits
at its top, the count is rounded up to a multiple of 8, STATE is DONE; no other byte changes. -/
def Obligations.GapInBandCompletes : Prop :=
  ∀ (w : Width) (s : State) (b : Byte), Inv Config.hw s → s.state ≠ .done → classify w = .gap →
    40 ≤ s.totalBits.toNat → s.totalBits.toNat ≤ 103 → Memory.read s.data s.pos.toNat = some b →
    ∃ t, exec (.feed w) s = .next t ∧ exec .stepGapComplete s = .next t ∧ t.state = .done ∧ t.flip = s.flip ∧
      t.bits = 0#3 ∧ t.pos.toNat = (s.totalBits.toNat + 7) / 8 ∧ t.totalBits.toNat = 8 * t.pos.toNat ∧
      Memory.read t.data s.pos.toNat = some (if s.bits = 0#3 then b else b >>> (8 - s.bits.toNat)) ∧
      SameBytesBut s.pos.toNat s t ∧ SameOutside s t

/-- R119, R152, R161, R134, R136: completion, by a gap in the band or by the full-frame test, in every state outside
DONE: a whole byte stays, a partial one is filled, then STATE is DONE; where the filling overflows the buffer it
resets, and STATE is not written after it (DEDUCED, log entry 8). A count that wraps, in states no run reaches, is the
model's choice (DESIGN CHOICE, log entry 17). -/
def Obligations.CompletionPadsThenDone : Prop :=
  ∀ (i : Instr) (s : State), s.state ≠ .done →
    ((40 ≤ s.totalBits.toNat ∧ s.totalBits.toNat ≤ 103 ∧
        (i = .stepGapComplete ∨ ∃ w, i = .feed w ∧ classify w = .gap)) ∨
      (s.totalBits.toNat = 104 ∧ ∃ p, p ≠ .gap ∧ i = .stepFullFrame p)) →
    (s.bits = 0#3 → exec i s = .next { s with state := .done }) ∧
    (∀ b, s.bits ≠ 0#3 → Memory.read s.data s.pos.toNat = some b →
      (s.pos.toNat + 1 ≠ Config.hw.cap →
        ∃ t, exec i s = .next t ∧ t.state = .done ∧ t.flip = s.flip ∧ PartialFilled b s t) ∧
      (s.pos.toNat + 1 = Config.hw.cap → ∃ t, exec i s = .next t ∧ PartialOverflowed b s t))

/-- The model's choice, log entry 9: a line of the map issued where it is not selected changes nothing. -/
def Obligations.UnselectedLineChangesNothing : Prop :=
  ∀ (s : State) (p : PulseClass),
    ((s.state = .done ∨ ¬ (40 ≤ s.totalBits.toNat ∧ s.totalBits.toNat ≤ 103)) → exec .stepGapComplete s = .next s) ∧
    ((s.state = .done ∨ (40 ≤ s.totalBits.toNat ∧ s.totalBits.toNat ≤ 103)) → exec .stepGapInvalid s = .next s) ∧
    (s.state ≠ .unknown → exec .stepUnknownLong s = .next s) ∧
    ((s.state ≠ .unknown ∨ s.flip.toNat < 32) → exec .stepUnknownShortSync s = .next s) ∧
    ((s.state ≠ .unknown ∨ 32 ≤ s.flip.toNat) → exec .stepUnknownShortEarly s = .next s) ∧
    (s.state ≠ .ok → exec .stepOkShort s = .next s ∧ exec .stepOkLong s = .next s) ∧
    (s.state ≠ .t0 → exec .stepT0Short s = .next s ∧ exec .stepT0Long s = .next s) ∧
    ((p = .gap ∨ s.state = .unknown ∨ s.state = .t0 ∨ s.state = .ok ∨ s.state = .done) →
      exec (.stepReserved p) s = .next s) ∧
    ((p = .gap ∨ s.state = .done ∨ s.totalBits.toNat ≠ 104) → exec (.stepFullFrame p) s = .next s)

/-- R117: FEED's result is true in exactly two cases: STATE was DONE, or the outcome was COMPLETE, by a gap in the band or
by the 104th bit. -/
def Obligations.FeedResultTrueIffComplete : Prop :=
  ∀ (w : Width) (s t : State), Inv Config.hw s → exec (.feed w) s = .next t →
    (feedResult t = true ↔
      s.state = .done ∨
      (classify w = .gap ∧ 40 ≤ s.totalBits.toNat ∧ s.totalBits.toNat ≤ 103) ∨
      (s.totalBits.toNat = 103 ∧
        ((s.state = .ok ∧ classify w = .long) ∨ (s.state = .t0 ∧ classify w = .short))))

/-- R162: STATE after a FEED is what the transition table says. -/
def Obligations.TransitionTable : Prop :=
  ∀ (w : Width) (s : State), Inv Config.hw s →
    ∃ t, exec (.feed w) s = .next t ∧ t.state = stateAfterFeed (classify w) s

/-- R21, R28: one step enters DONE only by a FEED and leaves it only by RESET or HWRESET. -/
def Obligations.DoneEnteredByFeedLeftByReset : Prop :=
  ∀ s t : State, step s = .next t →
    (s.state ≠ .done → t.state = .done → ∃ w, nextInstr s = .feed w) ∧
    (s.state = .done → t.state ≠ .done → nextInstr s = .reset ∨ nextInstr s = .hwreset)

/-- R62, R65: a completed frame survives any number of pulses, idle clocks and reads. -/
def Obligations.FrameSurvivesPulses : Prop :=
  ∀ (c : Config) (os : List BoundaryOp) (s : State), s.state = .done →
    (∀ o ∈ os, o ≠ .reset ∧ o ≠ .hwreset) → ∃ t, runOps c os s = .next t ∧ SameBlock s t

/-- R64, R26: of the operations of the boundary only FEED and HWRESET write DATA, and only FEED, RESET and HWRESET write a
register. -/
def Obligations.OnlyFeedAndResetsWrite : Prop :=
  ∀ (c : Config) (o : BoundaryOp) (s t : State), perform c o s = .next t →
    (t.data ≠ s.data → (∃ w, o = .feed w) ∨ o = .hwreset) ∧
    (¬ SameBlock s t → (∃ w, o = .feed w) ∨ o = .reset ∨ o = .hwreset)

/-- R23: within an attempt TOTAL_BITS does not decrease; it goes to 0 exactly with a reset of the registers. -/
def Obligations.TotalBitsMonotone : Prop :=
  ∀ (w : Width) (s t : State), Inv Config.hw s → exec (.feed w) s = .next t →
    s.totalBits.toNat ≤ t.totalBits.toNat ∨ RegistersReset t

/-! ## The accumulator -/

/-- R130, R136: RECBIT shifts the bit into the byte at POS and advances the count and the cursor; where the cursor
would leave the buffer the byte is written and everything is reset. A count that wraps, in states no run reaches, is
the model's choice (DESIGN CHOICE, log entry 17). -/
def Obligations.RecbitAppendsOrOverflows : Prop :=
  ∀ (v : Bool) (s : State) (b : Byte), Memory.read s.data s.pos.toNat = some b →
    (HasRoom Config.hw s →
      ∃ t, exec (.recbit v) s = .next t ∧ t.state = s.state ∧ t.flip = s.flip ∧ BitAppended v b s t) ∧
    (¬ HasRoom Config.hw s → ∃ t, exec (.recbit v) s = .next t ∧ BitOverflowed v b s t)

/-- R131, R130: RECMAN stores the flip flag after the exclusive or. Two clauses rest on the spec's own decisions:
where the bit does not fit, the byte is written and everything is reset (R136, decisions D9 and D10); with FLIP above
1 the stored bit is FLIP[0] (decision D22). A count that wraps, in states no run reaches, is the model's choice
(DESIGN CHOICE, log entry 17). -/
def Obligations.RecmanStoresUpdatedFlag : Prop :=
  ∀ (v : Bool) (s : State) (b : Byte), Memory.read s.data s.pos.toNat = some b →
    (HasRoom Config.hw s →
      ∃ t, exec (.recman v) s = .next t ∧ t.state = s.state ∧
        t.flip = s.flip ^^^ (if v then 1#6 else 0#6) ∧ BitAppended (v ^^ s.flip.getLsbD 0) b s t) ∧
    (¬ HasRoom Config.hw s → ∃ t, exec (.recman v) s = .next t ∧ BitOverflowed (v ^^ s.flip.getLsbD 0) b s t)

/-- The model's fault, log entry 7: where POS addresses no byte of the buffer RECBIT and RECMAN stop by name. -/
def Obligations.RecordingOutsideBufferFaults : Prop :=
  ∀ (v : Bool) (s : State), Memory.read s.data s.pos.toNat = none →
    exec (.recbit v) s = .fault .addressOutsideBuffer ∧ exec (.recman v) s = .fault .addressOutsideBuffer

/-- R134, R136: the net effect of PAD, and its overflow. A count that wraps, in states no run reaches, is the model's
choice (DESIGN CHOICE, log entry 17). -/
def Obligations.PadNetEffect : Prop :=
  ∀ s : State,
    (s.bits = 0#3 → exec .pad s = .next s) ∧
    (∀ b, s.bits ≠ 0#3 → Memory.read s.data s.pos.toNat = some b →
      (s.pos.toNat + 1 ≠ Config.hw.cap →
        ∃ t, exec .pad s = .next t ∧ t.state = s.state ∧ t.flip = s.flip ∧ PartialFilled b s t) ∧
      (s.pos.toNat + 1 = Config.hw.cap → ∃ t, exec .pad s = .next t ∧ PartialOverflowed b s t))

/-- R133: k bits recorded into a byte that holds x: the bits stand at the top in arrival order and what is left of x
below them; after eight bits nothing of x is left. A count that wraps, in states no run reaches, is the model's choice
(DESIGN CHOICE, log entry 17). -/
def Obligations.ByteHoldsBitsInArrivalOrder : Prop :=
  ∀ (vs : List Bool) (s : State) (x : Byte), vs.length ≤ 8 → s.bits = 0#3 → s.pos.toNat + 1 ≠ Config.hw.cap →
    Memory.read s.data s.pos.toNat = some x →
    ∃ t y, runInstrs (vs.map Instr.recbit) s = .next t ∧ Memory.read t.data s.pos.toNat = some y ∧
      (∀ j, j < 8 → y.getLsbD j =
        if j + vs.length < 8 then x.getLsbD (j + vs.length) else vs.getD (j + vs.length - 8) false) ∧
      t.totalBits = s.totalBits + BitVec.ofNat 8 vs.length ∧ SameBytesBut s.pos.toNat s t

/-! ## The pseudo-operations -/

/-- R95: LONG, SHORT and GAP are FEED 900, FEED 400 and FEED 1500; SYNC is SHORT, TOGGLE is LONG, SAME is SHORT twice. -/
def Obligations.SymbolsAreFeeds : Prop :=
  ∀ s : State,
    exec .long s = exec (.feed 900#16) s ∧ exec .short s = exec (.feed 400#16) s ∧ exec .gap s = exec (.feed 1500#16) s ∧
    exec .sync s = exec .short s ∧ exec .toggle s = exec .long s ∧ exec .same s = runInstrs [.short, .short] s

/-- R95, R22: PREAMBLE n in UNKNOWN with FLIP = 0 brings FLIP to min(n, 32) and changes nothing else (outside the states
the full-frame test would complete). -/
def Obligations.PreambleCountsToThirtyTwo : Prop :=
  ∀ (n : Nat) (s : State), s.state = .unknown → s.flip = 0#6 → s.totalBits.toNat ≠ 104 →
    exec (.preamble n) s = .next { s with flip := BitVec.ofNat 6 (min n 32) }

/-- R94 "op repeated number times": REP 0 does nothing, REP 1 of an operation, of a pseudo-operation or of another REP has
its outcome, REP n+1 is the body once and then REP n, and a bracketed list is run in order. With an ill-formed frame
pseudo-operation in the body this is the model's choice (DESIGN CHOICE, log entry 16). -/
def Obligations.RepUnrolls : Prop :=
  ∀ (n m : Nat) (o : BoundaryOp) (p : Pseudo) (body a b : TraceOp) (s : State),
    exec (.rep 0 body) s = .next s ∧
    exec (.rep 1 (.op o)) s = exec o.toInstr s ∧
    exec (.rep 1 (.pseudo p)) s = exec p.toInstr s ∧
    exec (.rep 1 (.rep m body)) s = exec (.rep m body) s ∧
    exec (.rep 1 (.seq a b)) s = runInstrs [.rep 1 a, .rep 1 b] s ∧
    exec (.rep (n + 1) body) s = runInstrs [.rep 1 body, .rep n body] s

/-- R95: PREAMBLE n is REP n of LONG; FRAMEBITS of the one bit 0 is SYNC, and each further bit is a TOGGLE if it differs from
the bit before it and a SAME otherwise; FRAMEBYTES is FRAMEBITS of the bits of the bytes in order, bit 0 of each first
(for an ill-formed list of bytes the model's choice, DESIGN CHOICE, log entry 16). -/
def Obligations.FramePseudoOperationsExpand : Prop :=
  ∀ (n : Nat) (bs : List Bool) (x y : Bool) (hs : List Byte) (s : State),
    exec (.preamble n) s = exec (.rep n (.pseudo .long)) s ∧
    exec (.frameBits [false]) s = exec .sync s ∧
    (WellFormed (.frameBits (bs ++ [x])) = true →
      exec (.frameBits (bs ++ [x, y])) s =
        runInstrs [.frameBits (bs ++ [x]), if y = x then .same else .toggle] s) ∧
    exec (.frameBytes hs) s = exec (.frameBits (hs.flatMap fun h =>
      [h.getLsbD 0, h.getLsbD 1, h.getLsbD 2, h.getLsbD 3, h.getLsbD 4, h.getLsbD 5, h.getLsbD 6, h.getLsbD 7])) s

/-- R95, R137: in OK, TOGGLE records the complement of the bit recorded last and SAME records a copy of it. -/
def Obligations.ToggleComplementsSameCopies : Prop :=
  ∀ (s : State) (b : Bool), Inv Config.hw s → s.state = .ok →
    recordedBit s (s.totalBits.toNat - 1) = some b →
    (∃ t, exec .toggle s = .next t ∧ t.totalBits = s.totalBits + 1#8 ∧ recordedBit t s.totalBits.toNat = some (!b) ∧
      ∀ n, n < s.totalBits.toNat → recordedBit t n = recordedBit s n) ∧
    (∃ t, exec .same s = .next t ∧ t.totalBits = s.totalBits + 1#8 ∧ recordedBit t s.totalBits.toNat = some b ∧
      ∀ n, n < s.totalBits.toNat → recordedBit t n = recordedBit s n)

/-- R95, R137, R52: FRAMEBITS after the preamble, of at most 104 bits, records exactly the bits given, in order; with 104
bits its last pulse completes the frame. -/
def Obligations.FrameBitsRecordsTheBits : Prop :=
  ∀ (bs : List Bool) (s : State), Inv Config.hw s → s.state = .unknown → 32 ≤ s.flip.toNat →
    WellFormed (.frameBits bs) = true → bs.length ≤ 104 →
    ∃ t, exec (.frameBits bs) s = .next t ∧ t.state = (if bs.length = 104 then .done else .ok) ∧
      t.totalBits.toNat = bs.length ∧ (∀ n, n < bs.length → recordedBit t n = bs[n]?) ∧ SameOutside s t

/-- The round trip (R137, R95, R161): from the reset registers, a preamble of 32 or more LONG and the pulses of any 13
bytes whose first has bit 0 clear complete a frame, and GETFRAME returns exactly those bytes. -/
def Obligations.ThirteenBytesRoundTrip : Prop :=
  ∀ (n : Nat) (hs : List Byte) (s : State), BufferOk Config.hw s → RegistersReset s → 32 ≤ n →
    WellFormed (.frameBytes hs) = true → hs.length = 13 →
    ∃ t, runInstrs [.preamble n, .frameBytes hs, .getframe .whole] s = .next t ∧ t.state = .done ∧
      t.observed = s.observed ++ [.frame 13#5 hs]

/-- Short frames (R152, R134, R137): after the preamble, n bits with 40 <= n <= 103 and one GAP complete a frame of
(n + 7) / 8 bytes, which holds the bits in arrival order and zeros above them. -/
def Obligations.ShortFrameDelivered : Prop :=
  ∀ (bs : List Bool) (s : State), Inv Config.hw s → s.state = .unknown → 32 ≤ s.flip.toNat →
    WellFormed (.frameBits bs) = true → 40 ≤ bs.length → bs.length ≤ 103 →
    ∃ t, runInstrs [.frameBits bs, .gap] s = .next t ∧ t.state = .done ∧ t.pos.toNat = (bs.length + 7) / 8 ∧
      ∀ k, k < 8 * t.pos.toNat →
        (Memory.read t.data (k / 8)).map (fun b => b.getLsbD (k % 8)) = some (bs.getD k false)

/-! ## What stale bytes and CAP cannot influence -/

/-- R30, R7, D4: two blocks, of any two admitted CAPs and with any stale bytes, that have received the same attempt still
have after every operation of the boundary; in DONE their frames are equal. -/
def Obligations.StaleBytesAndCapNeverMatter : Prop :=
  ∀ (c d : Config) (o : BoundaryOp) (s s' t t' : State), Inv c s → Inv d s' → SameAttempt s s' →
    perform c o s = .next t → perform d o s' = .next t' →
    SameAttempt t t' ∧
    (t.state = .done → ∀ a, a < t.pos.toNat → Memory.read t.data a = Memory.read t'.data a)
end

