-- ==== Sys2Proof/Laws/State.lean ====
section
/-! SUPPORT. One lemma per field per update of the state, all by `rfl`. -/

namespace Sys2Proof.Machine

/-! ## doReset -/

@[simp] theorem doReset_state (s : State) : (doReset s).state = .unknown := rfl
@[simp] theorem doReset_flip (s : State) : (doReset s).flip = 0#6 := rfl
@[simp] theorem doReset_totalBits (s : State) : (doReset s).totalBits = 0#8 := rfl
@[simp] theorem doReset_bits (s : State) : (doReset s).bits = 0#3 := rfl
@[simp] theorem doReset_pos (s : State) : (doReset s).pos = 0#5 := rfl
@[simp] theorem doReset_data (s : State) : (doReset s).data = s.data := rfl
@[simp] theorem doReset_pending (s : State) : (doReset s).pending = s.pending := rfl
@[simp] theorem doReset_observed (s : State) : (doReset s).observed = s.observed := rfl
@[simp] theorem doReset_draws (s : State) : (doReset s).draws = s.draws := rfl
@[simp] theorem takeInvalid_eq (k : InvalidCause) (s : State) : takeInvalid k s = doReset s := rfl

/-! ## hwreset -/

@[simp] theorem hwreset_state (c : Config) (s : State) : (hwreset c s).state = .unknown := rfl
@[simp] theorem hwreset_flip (c : Config) (s : State) : (hwreset c s).flip = 0#6 := rfl
@[simp] theorem hwreset_totalBits (c : Config) (s : State) : (hwreset c s).totalBits = 0#8 := rfl
@[simp] theorem hwreset_bits (c : Config) (s : State) : (hwreset c s).bits = 0#3 := rfl
@[simp] theorem hwreset_pos (c : Config) (s : State) : (hwreset c s).pos = 0#5 := rfl
@[simp] theorem hwreset_data (c : Config) (s : State) : (hwreset c s).data = powerOnData c.cap s.draws := rfl
@[simp] theorem hwreset_pending (c : Config) (s : State) : (hwreset c s).pending = s.pending := rfl
@[simp] theorem hwreset_observed (c : Config) (s : State) : (hwreset c s).observed = s.observed := rfl
@[simp] theorem hwreset_draws (c : Config) (s : State) : (hwreset c s).draws = s.draws + 1 := rfl

/-! ## The reads -/

@[simp] theorem readDone_state (s : State) : (readDone s).state = s.state := rfl
@[simp] theorem readDone_flip (s : State) : (readDone s).flip = s.flip := rfl
@[simp] theorem readDone_totalBits (s : State) : (readDone s).totalBits = s.totalBits := rfl
@[simp] theorem readDone_bits (s : State) : (readDone s).bits = s.bits := rfl
@[simp] theorem readDone_pos (s : State) : (readDone s).pos = s.pos := rfl
@[simp] theorem readDone_data (s : State) : (readDone s).data = s.data := rfl
@[simp] theorem readDone_pending (s : State) : (readDone s).pending = s.pending := rfl
@[simp] theorem readDone_observed (s : State) :
    (readDone s).observed = s.observed ++ [.isDone (isDone s)] := rfl
@[simp] theorem readDone_draws (s : State) : (readDone s).draws = s.draws := rfl

@[simp] theorem readFrame_state (r : FrameRead) (s : State) : (readFrame r s).state = s.state := rfl
@[simp] theorem readFrame_flip (r : FrameRead) (s : State) : (readFrame r s).flip = s.flip := rfl
@[simp] theorem readFrame_totalBits (r : FrameRead) (s : State) : (readFrame r s).totalBits = s.totalBits := rfl
@[simp] theorem readFrame_bits (r : FrameRead) (s : State) : (readFrame r s).bits = s.bits := rfl
@[simp] theorem readFrame_pos (r : FrameRead) (s : State) : (readFrame r s).pos = s.pos := rfl
@[simp] theorem readFrame_data (r : FrameRead) (s : State) : (readFrame r s).data = s.data := rfl
@[simp] theorem readFrame_pending (r : FrameRead) (s : State) : (readFrame r s).pending = s.pending := rfl
@[simp] theorem readFrame_observed (r : FrameRead) (s : State) :
    (readFrame r s).observed = s.observed ++ [frameObservation r s] := rfl
@[simp] theorem readFrame_draws (r : FrameRead) (s : State) : (readFrame r s).draws = s.draws + 1 := rfl

/-! ## The branches that record nothing -/

@[simp] theorem countPreamble_state (s : State) : (countPreamble s).state = s.state := rfl
@[simp] theorem countPreamble_flip (s : State) : (countPreamble s).flip = countLong s.flip := rfl
@[simp] theorem countPreamble_totalBits (s : State) : (countPreamble s).totalBits = s.totalBits := rfl
@[simp] theorem countPreamble_bits (s : State) : (countPreamble s).bits = s.bits := rfl
@[simp] theorem countPreamble_pos (s : State) : (countPreamble s).pos = s.pos := rfl
@[simp] theorem countPreamble_data (s : State) : (countPreamble s).data = s.data := rfl
@[simp] theorem countPreamble_pending (s : State) : (countPreamble s).pending = s.pending := rfl
@[simp] theorem countPreamble_observed (s : State) : (countPreamble s).observed = s.observed := rfl
@[simp] theorem countPreamble_draws (s : State) : (countPreamble s).draws = s.draws := rfl

@[simp] theorem firstHalf_state (s : State) : (firstHalf s).state = .t0 := rfl
@[simp] theorem firstHalf_flip (s : State) : (firstHalf s).flip = s.flip := rfl
@[simp] theorem firstHalf_totalBits (s : State) : (firstHalf s).totalBits = s.totalBits := rfl
@[simp] theorem firstHalf_bits (s : State) : (firstHalf s).bits = s.bits := rfl
@[simp] theorem firstHalf_pos (s : State) : (firstHalf s).pos = s.pos := rfl
@[simp] theorem firstHalf_data (s : State) : (firstHalf s).data = s.data := rfl
@[simp] theorem firstHalf_pending (s : State) : (firstHalf s).pending = s.pending := rfl
@[simp] theorem firstHalf_observed (s : State) : (firstHalf s).observed = s.observed := rfl
@[simp] theorem firstHalf_draws (s : State) : (firstHalf s).draws = s.draws := rfl

/-! ## What is presented -/

@[simp] theorem taken_state (s : State) : s.taken.state = s.state := rfl
@[simp] theorem taken_flip (s : State) : s.taken.flip = s.flip := rfl
@[simp] theorem taken_totalBits (s : State) : s.taken.totalBits = s.totalBits := rfl
@[simp] theorem taken_bits (s : State) : s.taken.bits = s.bits := rfl
@[simp] theorem taken_pos (s : State) : s.taken.pos = s.pos := rfl
@[simp] theorem taken_data (s : State) : s.taken.data = s.data := rfl
@[simp] theorem taken_pending (s : State) : s.taken.pending = s.pending.tail := rfl
@[simp] theorem taken_observed (s : State) : s.taken.observed = s.observed := rfl
@[simp] theorem taken_draws (s : State) : s.taken.draws = s.draws := rfl
@[simp] theorem withFetchWord_taken (s : State) (n w : Nat) : (s.withFetchWord n w).taken = s := rfl
@[simp] theorem withFetchWord_pending (s : State) (n w : Nat) :
    (s.withFetchWord n w).pending = .clock false (BitVec.ofNat 18 (w % 2 ^ n)) :: s.pending := rfl

/-! ## Outcomes -/

@[simp] theorem finish_ok (s : State) : finish (.ok s) = .next s := rfl
@[simp] theorem finish_error (f : Fault) : finish (.error f) = .fault f := rfl

theorem finish_eq_next {r : Except Fault State} {t : State} (h : finish r = .next t) : r = .ok t := by
  cases r with
  | error f => cases h
  | ok s => cases h; rfl

end Sys2Proof.Machine
end

