-- ==== Sys2Proof/Laws/Flags.lean ====
section
/-! SUPPORT. What the flag operations, the tests on the counters and the shift of a recorded bit compute
(`10_state.md` R28, `41_bit_accumulator.md` R131, R133, `42_oregon_v3.md` R152 to R154, R161). -/

namespace Sys2Proof.Machine

/-! ## The tests, as comparisons of numbers -/

theorem inShortBand_iff (n : BitVec 8) : inShortBand n = true ↔ 40 ≤ n.toNat ∧ n.toNat ≤ 103 := by
  simp [inShortBand]

theorem inShortBand_eq_false (n : BitVec 8) : inShortBand n = false ↔ ¬ (40 ≤ n.toNat ∧ n.toNat ≤ 103) := by
  rw [← inShortBand_iff]; simp

theorem preambleSeen_iff (f : BitVec 6) : preambleSeen f = true ↔ 32 ≤ f.toNat := by simp [preambleSeen]

theorem preambleSeen_eq_false (f : BitVec 6) : preambleSeen f = false ↔ f.toNat < 32 := by simp [preambleSeen]

theorem isFullFrame_iff (n : BitVec 8) : isFullFrame n = true ↔ n.toNat = 104 := by simp [isFullFrame]

theorem isFullFrame_eq_false (n : BitVec 8) : isFullFrame n = false ↔ n.toNat ≠ 104 := by simp [isFullFrame]

theorem isDone_iff (s : State) : isDone s = true ↔ s.state = .done := by simp [isDone]

theorem isDone_eq_false (s : State) : isDone s = false ↔ s.state ≠ .done := by simp [isDone]

/-! ## The flip flag -/

@[simp] theorem toggleFlip_false (f : BitVec 6) : toggleFlip false f = f := by simp [toggleFlip]

theorem toggleFlip_true (f : BitVec 6) : toggleFlip true f = f ^^^ 1#6 := rfl

@[simp] theorem flipFlag_toggleFlip (v : Bool) (f : BitVec 6) :
    flipFlag (toggleFlip v f) = (v ^^ f.getLsbD 0) := by
  cases v <;> simp [flipFlag, toggleFlip]

/-- The exclusive or does not take a one-bit FLIP out of one bit (R44). -/
theorem toggleFlip_le (v : Bool) {f : BitVec 6} (h : f.toNat ≤ 1) : (toggleFlip v f).toNat ≤ 1 := by
  have : f = 0#6 ∨ f = 1#6 := by
    rcases Nat.lt_or_ge f.toNat 1 with h1 | h1
    · left; apply BitVec.eq_of_toNat_eq; simp; omega
    · right; apply BitVec.eq_of_toNat_eq; simp; omega
  rcases this with rfl | rfl <;> cases v <;> decide

/-! ## The shift -/

/-- A recorded bit stands at the top and every other bit has moved one place down (R133). -/
theorem shiftIn_getLsbD (v : Bool) (b : Byte) (j : Nat) :
    (shiftIn v b).getLsbD j = if j = 7 then v else b.getLsbD (j + 1) := by
  unfold shiftIn
  rcases Nat.lt_or_ge j 8 with h | h
  · have hj : j = 0 ∨ j = 1 ∨ j = 2 ∨ j = 3 ∨ j = 4 ∨ j = 5 ∨ j = 6 ∨ j = 7 := by omega
    rcases hj with rfl | rfl | rfl | rfl | rfl | rfl | rfl | rfl <;> cases v <;> simp
  · rw [if_neg (by omega)]
    rw [BitVec.getLsbD_of_ge _ _ h, BitVec.getLsbD_of_ge _ _ (by omega)]

@[simp] theorem shiftIn_false (b : Byte) : shiftIn false b = b >>> 1 := by simp [shiftIn]

/-! ## The three-bit position -/

theorem bits_eq_zero {x : BitVec 3} (h : x.toNat = 0) : x = 0#3 := BitVec.eq_of_toNat_eq h

theorem bits_lt_seven {x : BitVec 3} (h : x ≠ 7#3) : x.toNat < 7 := by
  have := x.isLt
  have h2 : x.toNat ≠ 7 := fun e => h (BitVec.eq_of_toNat_eq e)
  omega

theorem bits_succ {x : BitVec 3} (h : x ≠ 7#3) : (x + 1#3).toNat = x.toNat + 1 := by
  have := bits_lt_seven h
  rw [BitVec.toNat_add]
  show (x.toNat + 1) % 8 = _
  omega

end Sys2Proof.Machine
end

