-- ==== Sys2Proof/Laws/Memory.lean ====
section
/-! SUPPORT. The laws of the frame buffer: a read after a write, what a write leaves alone, and the canonical form, which
every memory operation keeps (`20_memory.md` R50, R54). -/

namespace Sys2Proof.Machine

theorem Memory.read_write_same {m : Memory} {a : Nat} {b : Byte} (v : Byte) (h : Memory.read m a = some b) :
    Memory.read (Memory.write m a v) a = some v := by
  induction m with
  | nil => cases h
  | cons cell m ih =>
    obtain ⟨k, x⟩ := cell
    by_cases hk : k = a
    · simp [Memory.write, Memory.read, hk]
    · simp only [Memory.read, hk, if_false] at h
      simp [Memory.write, Memory.read, hk, ih h]

theorem Memory.read_write_other (m : Memory) {a k : Nat} (v : Byte) (h : k ≠ a) :
    Memory.read (Memory.write m a v) k = Memory.read m k := by
  induction m with
  | nil => rfl
  | cons cell m ih =>
    obtain ⟨j, x⟩ := cell
    by_cases hj : j = a
    · have hk : j ≠ k := fun e => h (e ▸ hj)
      simp [Memory.write, Memory.read, hj, Ne.symm h]
    · simp [Memory.write, Memory.read, hj, ih]

theorem Memory.addresses_write (m : Memory) (a : Nat) (v : Byte) :
    (Memory.write m a v).map Prod.fst = m.map Prod.fst := by
  induction m with
  | nil => rfl
  | cons cell m ih =>
    obtain ⟨k, x⟩ := cell
    by_cases hk : k = a <;> simp [Memory.write, hk, ih]

theorem Memory.write_write (m : Memory) (a : Nat) (u v : Byte) :
    Memory.write (Memory.write m a u) a v = Memory.write m a v := by
  induction m with
  | nil => rfl
  | cons cell m ih =>
    obtain ⟨k, x⟩ := cell
    by_cases hk : k = a <;> simp [Memory.write, hk, ih]

/-- A write keeps the canonical form. -/
@[simp] theorem Memory.wf_write (c : Config) (m : Memory) (a : Nat) (v : Byte) :
    Memory.wf c (Memory.write m a v) = Memory.wf c m := by
  simp [Memory.wf, Memory.addresses_write]

/-- The hardware reset's DATA is in the canonical form. -/
@[simp] theorem Memory.wf_powerOnData (c : Config) (k : Nat) : Memory.wf c (powerOnData c.cap k) = true := by
  have e : ((fun (p : Host.Cell) => p.1) ∘ fun a => ((a, Config.powerOnByte k a) : Host.Cell)) = id := rfl
  simp [Memory.wf, powerOnData, e]

theorem Memory.read_isSome (m : Memory) (a : Nat) : (Memory.read m a).isSome = true ↔ a ∈ m.map Prod.fst := by
  induction m with
  | nil => simp [Memory.read]
  | cons cell m ih =>
    obtain ⟨k, x⟩ := cell
    by_cases hk : k = a
    · simp [Memory.read, hk]
    · rw [Memory.read, if_neg hk, ih]
      simp only [List.map_cons, List.mem_cons]
      exact ⟨Or.inr, fun h => h.resolve_left fun e => hk e.symm⟩

theorem Memory.addresses_of_wf {c : Config} {m : Memory} (h : Memory.wf c m = true) :
    m.map Prod.fst = List.range c.cap := by
  simpa [Memory.wf] using h

/-- In the canonical form every address of the buffer has a byte. -/
theorem Memory.read_of_wf {c : Config} {m : Memory} {a : Nat} (h : Memory.wf c m = true) (ha : a < c.cap) :
    ∃ b, Memory.read m a = some b := by
  have : (Memory.read m a).isSome = true := by
    rw [Memory.read_isSome, Memory.addresses_of_wf h]; exact List.mem_range.mpr ha
  exact Option.isSome_iff_exists.mp this

/-- In the canonical form no other address has one. -/
theorem Memory.read_none_of_wf {c : Config} {m : Memory} {a : Nat} (h : Memory.wf c m = true) (ha : c.cap ≤ a) :
    Memory.read m a = none := by
  cases hr : Memory.read m a with
  | none => rfl
  | some b =>
    have : (Memory.read m a).isSome = true := by rw [hr]; rfl
    rw [Memory.read_isSome, Memory.addresses_of_wf h, List.mem_range] at this
    omega

/-- In the canonical form the addresses rise strictly. -/
theorem Memory.rising_of_wf {c : Config} {m : Memory} (h : Memory.wf c m = true) :
    (m.map Prod.fst).Pairwise (· < ·) := by
  rw [Memory.addresses_of_wf h]; exact List.pairwise_lt_range

/-- Equal memories are equal data: two buffers in the canonical form that read alike are the same list. -/
theorem Memory.ext_of_addresses {m n : Memory} (ha : m.map Prod.fst = n.map Prod.fst)
    (hd : (m.map Prod.fst).Nodup) (hr : ∀ a, Memory.read m a = Memory.read n a) : m = n := by
  induction m generalizing n with
  | nil =>
    cases n with
    | nil => rfl
    | cons q n => simp at ha
  | cons p m ih =>
    cases n with
    | nil => simp at ha
    | cons q n =>
      obtain ⟨k, x⟩ := p
      obtain ⟨j, y⟩ := q
      simp only [List.map_cons, List.cons.injEq] at ha
      obtain ⟨rfl, ha⟩ := ha
      simp only [List.map_cons, List.nodup_cons] at hd
      have hx := hr k
      simp only [Memory.read, if_true, Option.some.injEq] at hx
      subst hx
      congr 1
      refine ih ha hd.2 fun a => ?_
      by_cases hk : k = a
      · subst hk
        have h1 : Memory.read m k = none := by
          rw [← Option.not_isSome_iff_eq_none, Memory.read_isSome]; exact hd.1
        have h2 : Memory.read n k = none := by
          rw [← Option.not_isSome_iff_eq_none, Memory.read_isSome, ← ha]; exact hd.1
        rw [h1, h2]
      · have := hr a
        simpa [Memory.read, hk] using this

end Sys2Proof.Machine
end

