-- ==== Sys2Proof/Laws/Ops.lean ====
section
/-! SUPPORT. What the accumulator's operations can do, said once (`41_bit_accumulator.md` R130 to R136). Later proofs cite
these lemmas and do not unfold the operations. -/

namespace Sys2Proof.Machine

/-- The state after a recorded bit that does not overflow, `b` being the byte at POS before it (R130). -/
def recorded (v : Bool) (b : Byte) (s : State) : State :=
  { s with data      := Memory.write s.data s.pos.toNat (shiftIn v b)
           totalBits := s.totalBits + 1#8
           bits      := s.bits + 1#3
           pos       := if s.bits = 7#3 then s.pos + 1#5 else s.pos }

/-- The next bit would complete the last byte of the buffer (R136). -/
def overflows (c : Config) (s : State) : Prop := s.bits = 7#3 ∧ s.pos.toNat + 1 = c.cap

section Recorded
variable (v : Bool) (b : Byte) (s : State)
@[simp] theorem recorded_state : (recorded v b s).state = s.state := rfl
@[simp] theorem recorded_flip : (recorded v b s).flip = s.flip := rfl
@[simp] theorem recorded_totalBits : (recorded v b s).totalBits = s.totalBits + 1#8 := rfl
@[simp] theorem recorded_bits : (recorded v b s).bits = s.bits + 1#3 := rfl
@[simp] theorem recorded_pos : (recorded v b s).pos = if s.bits = 7#3 then s.pos + 1#5 else s.pos := rfl
@[simp] theorem recorded_data : (recorded v b s).data = Memory.write s.data s.pos.toNat (shiftIn v b) := rfl
@[simp] theorem recorded_pending : (recorded v b s).pending = s.pending := rfl
@[simp] theorem recorded_observed : (recorded v b s).observed = s.observed := rfl
@[simp] theorem recorded_draws : (recorded v b s).draws = s.draws := rfl
end Recorded

/-- The state an overflow leaves: the byte is written, then the reset (R136, D10). -/
def overflowed (v : Bool) (b : Byte) (s : State) : State :=
  doReset { s with data := Memory.write s.data s.pos.toNat (shiftIn v b) }

section Overflowed
variable (v : Bool) (b : Byte) (s : State)
@[simp] theorem overflowed_state : (overflowed v b s).state = .unknown := rfl
@[simp] theorem overflowed_flip : (overflowed v b s).flip = 0#6 := rfl
@[simp] theorem overflowed_totalBits : (overflowed v b s).totalBits = 0#8 := rfl
@[simp] theorem overflowed_bits : (overflowed v b s).bits = 0#3 := rfl
@[simp] theorem overflowed_pos : (overflowed v b s).pos = 0#5 := rfl
@[simp] theorem overflowed_data : (overflowed v b s).data = Memory.write s.data s.pos.toNat (shiftIn v b) := rfl
@[simp] theorem overflowed_pending : (overflowed v b s).pending = s.pending := rfl
@[simp] theorem overflowed_observed : (overflowed v b s).observed = s.observed := rfl
@[simp] theorem overflowed_draws : (overflowed v b s).draws = s.draws := rfl
end Overflowed

/-! ## RECBIT -/

theorem recbit_fault {c : Config} {v : Bool} {s : State} (h : Memory.read s.data s.pos.toNat = none) :
    recbit c v s = .error .addressOutsideBuffer := by
  simp [recbit, h]

theorem recbit_room {c : Config} {v : Bool} {s : State} {b : Byte} (h : Memory.read s.data s.pos.toNat = some b)
    (hr : ¬ overflows c s) : recbit c v s = .ok (.ok, recorded v b s) := by
  by_cases h7 : s.bits = 7#3
  · have : s.pos.toNat + 1 ≠ c.cap := fun e => hr ⟨h7, e⟩
    simp [recbit, h, h7, this, recorded]
  · simp [recbit, h, h7, recorded]

theorem recbit_overflow {c : Config} {v : Bool} {s : State} {b : Byte} (h : Memory.read s.data s.pos.toNat = some b)
    (ho : overflows c s) : recbit c v s = .ok (.overflow, overflowed v b s) := by
  simp [recbit, h, ho.1, ho.2, overflowed, doReset]

/-- Everything RECBIT can answer. -/
theorem recbit_cases {c : Config} {v : Bool} {s : State} {r : RecResult × State} (h : recbit c v s = .ok r) :
    ∃ b, Memory.read s.data s.pos.toNat = some b ∧
      (¬ overflows c s ∧ r = (.ok, recorded v b s) ∨ overflows c s ∧ r = (.overflow, overflowed v b s)) := by
  cases hb : Memory.read s.data s.pos.toNat with
  | none => rw [recbit_fault hb] at h; cases h
  | some b =>
    refine ⟨b, rfl, ?_⟩
    by_cases ho : overflows c s
    · rw [recbit_overflow hb ho] at h; cases h; exact .inr ⟨ho, rfl⟩
    · rw [recbit_room hb ho] at h; cases h; exact .inl ⟨ho, rfl⟩

/-- With POS in the buffer RECBIT answers, and POS stays in the buffer (R41). -/
theorem recbit_total {c : Config} (v : Bool) {s : State} (h : BufferOk c s) :
    ∃ r t, recbit c v s = .ok (r, t) ∧ BufferOk c t := by
  obtain ⟨b, hb⟩ := Memory.read_of_wf h.1 h.2
  have hc := c.cap_ok
  by_cases ho : overflows c s
  · refine ⟨_, _, recbit_overflow hb ho, ?_, ?_⟩
    · simpa using h.1
    · simp only [overflowed_pos]; show 0 < c.cap; omega
  · refine ⟨_, _, recbit_room hb ho, ?_, ?_⟩
    · simpa using h.1
    · have h2 := h.2
      by_cases h7 : s.bits = 7#3
      · have : s.pos.toNat + 1 ≠ c.cap := fun e => ho ⟨h7, e⟩
        simp only [recorded_pos, h7, if_true, BitVec.toNat_add]
        show (s.pos.toNat + 1) % 32 < c.cap
        omega
      · simpa [h7] using h2

/-! ## RECMAN -/

theorem recman_eq (c : Config) (v : Bool) (s : State) :
    recman c v s = recbit c (flipFlag (toggleFlip v s.flip)) { s with flip := toggleFlip v s.flip } := rfl

theorem recman_total {c : Config} (v : Bool) {s : State} (h : BufferOk c s) :
    ∃ r t, recman c v s = .ok (r, t) ∧ BufferOk c t := by
  rw [recman_eq]; exact recbit_total _ h

/-- RECMAN where the bit fits. -/
theorem recman_room {c : Config} {v : Bool} {s : State} {b : Byte} (h : Memory.read s.data s.pos.toNat = some b)
    (hr : ¬ overflows c s) :
    recman c v s =
      .ok (.ok, recorded (flipFlag (toggleFlip v s.flip)) b { s with flip := toggleFlip v s.flip }) := by
  rw [recman_eq, recbit_room (s := { s with flip := toggleFlip v s.flip }) h hr]

/-- RECMAN where the bit overflows the buffer. -/
theorem recman_overflow {c : Config} {v : Bool} {s : State} {b : Byte} (h : Memory.read s.data s.pos.toNat = some b)
    (ho : overflows c s) : recman c v s = .ok (.overflow, overflowed (flipFlag (toggleFlip v s.flip)) b s) := by
  rw [recman_eq, recbit_overflow (s := { s with flip := toggleFlip v s.flip }) h ho]; rfl

/-! ## PAD -/

/-- The state in which the partial byte `b` at POS is filled with zero bits at its top (R134). -/
def padded (b : Byte) (s : State) : State :=
  { s with data      := Memory.write s.data s.pos.toNat (b >>> (8 - s.bits.toNat))
           totalBits := s.totalBits + BitVec.ofNat 8 (8 - s.bits.toNat)
           bits      := 0#3
           pos       := s.pos + 1#5 }

/-- The state in which the filling has overflowed the buffer. -/
def padOverflowed (b : Byte) (s : State) : State :=
  doReset { s with data := Memory.write s.data s.pos.toNat (b >>> (8 - s.bits.toNat)) }


theorem padLoop_aligned (c : Config) (n : Nat) {s : State} (h : s.bits = 0#3) : padLoop c n s = .ok (.ok, s) := by
  cases n <;> simp [padLoop, h]

theorem pad_aligned (c : Config) {s : State} (h : s.bits = 0#3) : pad c s = .ok (.ok, s) := padLoop_aligned c 7 h

/-- One zero bit and then the rest of the filling are the filling. -/
theorem shift_shift (b : Byte) {k : Nat} (h : k < 7) : b >>> 1 >>> (8 - (k + 1)) = b >>> (8 - k) := by
  rw [← BitVec.shiftRight_add]; congr 1; omega

/-- A turn of PAD that stays in the byte. -/
theorem padLoop_turn {c : Config} (n : Nat) {s : State} {b : Byte} (h0 : s.bits ≠ 0#3) (h7 : s.bits ≠ 7#3)
    (hr : Memory.read s.data s.pos.toNat = some b) :
    padLoop c (n + 1) s = padLoop c n (recorded false b s) ∧ (recorded false b s).bits ≠ 0#3 ∧
      (recorded false b s).bits.toNat = s.bits.toNat + 1 ∧ (recorded false b s).pos = s.pos ∧
      Memory.read (recorded false b s).data s.pos.toNat = some (b >>> 1) := by
  have hb : (recorded false b s).bits.toNat = s.bits.toNat + 1 := bits_succ h7
  refine ⟨?_, fun e => ?_, hb, by simp [h7], ?_⟩
  · simp only [padLoop, h0, if_false, recbit_room hr (fun e => h7 e.1)]
  · rw [e] at hb; simp at hb
  · rw [← shiftIn_false]; exact Memory.read_write_same _ hr

theorem padLoop_room {c : Config} (n : Nat) {s : State} {b : Byte} (h0 : s.bits ≠ 0#3) (hn : 8 - s.bits.toNat ≤ n)
    (hr : Memory.read s.data s.pos.toNat = some b) (hp : s.pos.toNat + 1 ≠ c.cap) :
    padLoop c n s = .ok (.ok, padded b s) := by
  induction n generalizing s b with
  | zero => have := s.bits.isLt; omega
  | succ n ih =>
    by_cases h7 : s.bits = 7#3
    · simp only [padLoop, h0, if_false, recbit_room hr (fun e => hp e.2)]
      rw [padLoop_aligned c n (by simp [h7])]
      have h7' : s.bits.toNat = 7 := by rw [h7]; rfl
      simp only [recorded, padded, shiftIn_false, h7, if_true, Except.ok.injEq, Prod.mk.injEq, true_and]
      congr 1
    · have hl := bits_lt_seven h7
      obtain ⟨e, hne, hb, hpos, hrd⟩ := padLoop_turn (c := c) n h0 h7 hr
      rw [e, ih hne (by omega) (by rw [hpos]; exact hrd) (by rw [hpos]; exact hp)]
      have e2 : s.totalBits + 1#8 + BitVec.ofNat 8 (8 - (s.bits.toNat + 1)) =
          s.totalBits + BitVec.ofNat 8 (8 - s.bits.toNat) := by
        rw [BitVec.add_assoc]; congr 1; apply BitVec.eq_of_toNat_eq; simp; omega
      simp only [padded, hb, hpos, recorded_data, recorded_totalBits, recorded_state, recorded_flip,
        recorded_pending, recorded_observed, recorded_draws, Memory.write_write, shift_shift b hl, e2]

theorem padLoop_overflow {c : Config} (n : Nat) {s : State} {b : Byte} (h0 : s.bits ≠ 0#3) (hn : 8 - s.bits.toNat ≤ n)
    (hr : Memory.read s.data s.pos.toNat = some b) (hp : s.pos.toNat + 1 = c.cap) :
    padLoop c n s = .ok (.overflow, padOverflowed b s) := by
  induction n generalizing s b with
  | zero => have := s.bits.isLt; omega
  | succ n ih =>
    by_cases h7 : s.bits = 7#3
    · have h7' : s.bits.toNat = 7 := by rw [h7]; rfl
      simp only [padLoop, h0, if_false, recbit_overflow hr ⟨h7, hp⟩]
      simp only [overflowed, padOverflowed, shiftIn_false, h7']
    · have hl := bits_lt_seven h7
      obtain ⟨e, hne, hb, hpos, hrd⟩ := padLoop_turn (c := c) n h0 h7 hr
      rw [e, ih hne (by omega) (by rw [hpos]; exact hrd) (by rw [hpos]; exact hp)]
      simp only [padOverflowed, hb, hpos, recorded_data, Memory.write_write, shift_shift b hl]
      rfl

theorem seven_turns {x : BitVec 3} (h : x ≠ 0#3) : 8 - x.toNat ≤ 7 := by
  have : x.toNat ≠ 0 := fun e => h (bits_eq_zero e)
  omega

/-- PAD of a partial byte that is not the last of the buffer. -/
theorem pad_room {c : Config} {s : State} {b : Byte} (h0 : s.bits ≠ 0#3)
    (hr : Memory.read s.data s.pos.toNat = some b) (hp : s.pos.toNat + 1 ≠ c.cap) :
    pad c s = .ok (.ok, padded b s) := padLoop_room 7 h0 (seven_turns h0) hr hp

/-- PAD of a partial byte that is the last of the buffer. -/
theorem pad_overflow {c : Config} {s : State} {b : Byte} (h0 : s.bits ≠ 0#3)
    (hr : Memory.read s.data s.pos.toNat = some b) (hp : s.pos.toNat + 1 = c.cap) :
    pad c s = .ok (.overflow, padOverflowed b s) := padLoop_overflow 7 h0 (seven_turns h0) hr hp

theorem padLoop_total {c : Config} (n : Nat) {s : State} (h : BufferOk c s) :
    ∃ r t, padLoop c n s = .ok (r, t) ∧ BufferOk c t := by
  induction n generalizing s with
  | zero => exact ⟨_, _, rfl, h⟩
  | succ n ih =>
    by_cases h0 : s.bits = 0#3
    · exact ⟨_, _, padLoop_aligned c _ h0, h⟩
    · obtain ⟨r, t, hr, ht⟩ := recbit_total false h
      cases r with
      | ok =>
        obtain ⟨r', t', h', ht'⟩ := ih ht
        exact ⟨r', t', by simp [padLoop, h0, hr, h'], ht'⟩
      | overflow => exact ⟨.overflow, t, by simp [padLoop, h0, hr], ht⟩

theorem pad_total {c : Config} {s : State} (h : BufferOk c s) :
    ∃ r t, pad c s = .ok (r, t) ∧ BufferOk c t := padLoop_total 7 h

/-- Completion answers where POS is in the buffer. -/
theorem complete_total {c : Config} {s : State} (h : BufferOk c s) :
    ∃ t, complete c s = .ok t ∧ BufferOk c t := by
  obtain ⟨r, t, hr, ht⟩ := pad_total h
  cases r with
  | ok => exact ⟨{ t with state := .done }, by simp [complete, hr], ht⟩
  | overflow => exact ⟨t, by simp [complete, hr], ht⟩

theorem complete_aligned (c : Config) {s : State} (h : s.bits = 0#3) :
    complete c s = .ok { s with state := .done } := by
  simp [complete, pad_aligned c h]

/-! ## What the accumulator leaves alone -/

/-- The operations of the accumulator touch only the byte at POS and no field outside the block. -/
structure AccFrame (s t : State) : Prop where
  outside : SameOutside s t
  bytes   : SameBytesBut s.pos.toNat s t

theorem recbit_frame {c : Config} {v : Bool} {s : State} {r : RecResult} {t : State}
    (h : recbit c v s = .ok (r, t)) : AccFrame s t := by
  obtain ⟨b, hb, ⟨-, e⟩ | ⟨-, e⟩⟩ := recbit_cases h <;> cases e <;>
    exact ⟨⟨rfl, rfl, rfl⟩, fun k hk => Memory.read_write_other _ _ hk⟩

theorem recman_frame {c : Config} {v : Bool} {s : State} {r : RecResult} {t : State}
    (h : recman c v s = .ok (r, t)) : AccFrame s t := by
  have := recbit_frame (recman_eq c v s ▸ h)
  exact ⟨this.outside, this.bytes⟩

/-- A turn of PAD leaves the loop or stays at the same byte. -/
theorem padLoop_frame {c : Config} {n : Nat} {s : State} {r : RecResult} {t : State}
    (h : padLoop c n s = .ok (r, t)) : AccFrame s t := by
  induction n generalizing s with
  | zero => cases h; exact ⟨⟨rfl, rfl, rfl⟩, fun _ _ => rfl⟩
  | succ n ih =>
    by_cases h0 : s.bits = 0#3
    · rw [padLoop_aligned c _ h0] at h; cases h; exact ⟨⟨rfl, rfl, rfl⟩, fun _ _ => rfl⟩
    · cases hr : recbit c false s with
      | error f => simp [padLoop, h0, hr] at h
      | ok q =>
        have hf := recbit_frame (r := q.1) (t := q.2) hr
        obtain ⟨b, hb, ⟨-, e⟩ | ⟨-, e⟩⟩ := recbit_cases hr <;> subst e
        · simp only [padLoop, h0, hr, if_false] at h
          by_cases h7 : s.bits = 7#3
          · rw [padLoop_aligned c n (by simp [h7])] at h
            cases h; exact hf
          · have := ih h
            refine ⟨⟨this.outside.1.trans hf.outside.1, this.outside.2.1.trans hf.outside.2.1,
              this.outside.2.2.trans hf.outside.2.2⟩, fun k hk => ?_⟩
            rw [this.bytes k (by simpa [h7] using hk), hf.bytes k hk]
        · simp only [padLoop, h0, hr, if_false] at h; cases h; exact hf

theorem complete_frame {c : Config} {s t : State} (h : complete c s = .ok t) : AccFrame s t := by
  unfold complete at h
  split at h
  · cases h
  · rename_i hp; cases h; exact padLoop_frame hp
  · rename_i hp; cases h
    have := padLoop_frame hp
    exact ⟨this.outside, this.bytes⟩

end Sys2Proof.Machine
end

