-- ==== Sys2Proof/Laws/PerInstr.lean ====
section
/-! SUPPORT. A law of every instruction as syntax: its encoding sets no bit that decoding ignores (`30_encoding.md` R90
"The canonical words have the ignored bits zero"). -/

namespace Sys2Proof.Laws.CanonicalEncoding

/-- No bit that decoding ignores is set: with `hwreset` the word is 0, and without it the word is the one RESET word, the
one IDLE word, or a FEED word, whose two upper bits are 01 and whose sixteen lower bits are all read. -/
def CanonicalEvent (e : PortEvent) : Prop :=
  match e with
  | .clock true w  => w.toNat = 0
  | .clock false w => w.toNat = 0x20000 ∨ w.toNat = 0 ∨ (0x10000 ≤ w.toNat ∧ w.toNat < 0x20000)
  | .readDone      => True
  | .readFrame _   => True

/-- Every port event of the encoding is canonical. -/
def Statement (i : Instr) : Prop := ∀ e ∈ encode i, CanonicalEvent e

/-- The word of FEED, as a number. -/
theorem feed_word_toNat (w : Width) : (0x10000#18 ||| w.zeroExtend 18).toNat = 0x10000 + w.toNat := by
  have hw := w.isLt
  have h : (w.zeroExtend 18).toNat = w.toNat := by
    simp only [BitVec.truncate_eq_setWidth, BitVec.toNat_setWidth]; omega
  rw [BitVec.toNat_or, h]
  show 2 ^ 16 * 1 ||| w.toNat = _
  rw [← Nat.two_pow_add_eq_or_of_lt (by simpa using hw)]

theorem canonical_encode (o : BoundaryOp) : CanonicalEvent o.encode := by
  cases o with
  | hwreset => rfl
  | reset => exact .inl rfl
  | feed w =>
    have hw := w.isLt
    refine .inr (.inr ?_)
    rw [feed_word_toNat]
    omega
  | idle => exact .inr (.inl rfl)
  | isdone => trivial
  | getframe r => trivial

/-- Whatever an instruction expands to, its encoding is canonical. -/
theorem of_expand (i : Instr) : Statement i := by
  intro e he
  obtain ⟨o, -, rfl⟩ := List.mem_map.mp he
  exact canonical_encode o

/-! ## Instruction by instruction -/

theorem reset : Statement .reset := of_expand _
theorem feed (w : Width) : Statement (.feed w) := of_expand _
theorem idle : Statement .idle := of_expand _
theorem hwreset : Statement .hwreset := of_expand _
theorem isdone : Statement .isdone := of_expand _
theorem getframe (r : FrameRead) : Statement (.getframe r) := of_expand _
theorem feedGapLow (w : Width) : Statement (.feedGapLow w) := of_expand _
theorem feedShort (w : Width) : Statement (.feedShort w) := of_expand _
theorem feedLong (w : Width) : Statement (.feedLong w) := of_expand _
theorem feedGapHigh (w : Width) : Statement (.feedGapHigh w) := of_expand _
theorem stepDoneAny (p : PulseClass) : Statement (.stepDoneAny p) := of_expand _
theorem stepGapComplete : Statement .stepGapComplete := of_expand _
theorem stepGapInvalid : Statement .stepGapInvalid := of_expand _
theorem stepUnknownLong : Statement .stepUnknownLong := of_expand _
theorem stepUnknownShortSync : Statement .stepUnknownShortSync := of_expand _
theorem stepUnknownShortEarly : Statement .stepUnknownShortEarly := of_expand _
theorem stepOkShort : Statement .stepOkShort := of_expand _
theorem stepOkLong : Statement .stepOkLong := of_expand _
theorem stepT0Short : Statement .stepT0Short := of_expand _
theorem stepT0Long : Statement .stepT0Long := of_expand _
theorem stepReserved (p : PulseClass) : Statement (.stepReserved p) := of_expand _
theorem stepFullFrame (p : PulseClass) : Statement (.stepFullFrame p) := of_expand _
theorem recbit (v : Bool) : Statement (.recbit v) := of_expand _
theorem recman (v : Bool) : Statement (.recman v) := of_expand _
theorem pad : Statement .pad := of_expand _
theorem doReset : Statement .doReset := of_expand _
theorem long : Statement .long := of_expand _
theorem short : Statement .short := of_expand _
theorem gap : Statement .gap := of_expand _
theorem preamble (n : Nat) : Statement (.preamble n) := of_expand _
theorem sync : Statement .sync := of_expand _
theorem toggle : Statement .toggle := of_expand _
theorem same : Statement .same := of_expand _
theorem frameBits (bs : List Bool) : Statement (.frameBits bs) := of_expand _
theorem frameBytes (hs : List Byte) : Statement (.frameBytes hs) := of_expand _
theorem rep (n : Nat) (body : TraceOp) : Statement (.rep n body) := of_expand _

end Sys2Proof.Laws.CanonicalEncoding
end

