-- ==== Sys2Proof/Laws/Protocol.lean ====
section
/-! SUPPORT. What the protocol step and FEED can do, said once (`42_oregon_v3.md` R150 to R161, `40_engine_ops.md`
R110). -/

namespace Sys2Proof.Machine

/-! ## CLASSIFY -/

theorem classify_gap {w : Width} (h : w.toNat < 200 ∨ 1200 ≤ w.toNat) : classify w = .gap := by
  simp [classify, h]

theorem classify_short {w : Width} (h : 200 ≤ w.toNat) (h' : w.toNat < 700) : classify w = .short := by
  have h1 : ¬ (w.toNat < 200 ∨ 1200 ≤ w.toNat) := by omega
  have h2 : ¬ 700 ≤ w.toNat := by omega
  simp [classify, h1, h2]

theorem classify_long {w : Width} (h : 700 ≤ w.toNat) (h' : w.toNat < 1200) : classify w = .long := by
  have h1 : ¬ (w.toNat < 200 ∨ 1200 ≤ w.toNat) := by omega
  simp [classify, h1, h]

@[simp] theorem classify_900 : classify 900#16 = .long := by decide
@[simp] theorem classify_400 : classify 400#16 = .short := by decide
@[simp] theorem classify_1500 : classify 1500#16 = .gap := by decide

/-! ## The branches that record a bit -/

theorem recordThen_total {c : Config} (v : Bool) (d : DecoderState) {s : State} (h : BufferOk c s) :
    ∃ t, recordThen c v d s = .ok t ∧ BufferOk c t := by
  obtain ⟨r, t, hr, ht⟩ := recman_total v h
  cases r with
  | ok => exact ⟨{ t with state := d }, by simp [recordThen, hr], ht⟩
  | overflow => exact ⟨t, by simp [recordThen, hr], ht⟩

/-- Everything recording and then writing STATE can answer. -/
theorem recordThen_cases {c : Config} {v : Bool} {d : DecoderState} {s t : State} (h : recordThen c v d s = .ok t) :
    (∃ u, recman c v s = .ok (.ok, u) ∧ t = { u with state := d }) ∨ recman c v s = .ok (.overflow, t) := by
  unfold recordThen at h
  cases hr : recman c v s with
  | error f => rw [hr] at h; cases h
  | ok q =>
    obtain ⟨r, u⟩ := q
    rw [hr] at h
    cases r with
    | ok => cases h; exact .inl ⟨u, rfl, rfl⟩
    | overflow => cases h; exact .inr rfl

/-- Everything recording a toggle can answer. -/
theorem recordToggle_cases {c : Config} {s t : State} (h : recordToggle c s = .ok t) :
    ∃ r, recman c true s = .ok (r, t) := by
  unfold recordToggle at h
  cases hr : recman c true s with
  | error f => rw [hr] at h; cases h
  | ok q => obtain ⟨r, u⟩ := q; rw [hr] at h; cases h; exact ⟨r, rfl⟩

theorem recordThen_frame {c : Config} {v : Bool} {d : DecoderState} {s t : State}
    (h : recordThen c v d s = .ok t) : AccFrame s t := by
  obtain ⟨u, hu, rfl⟩ | hu := recordThen_cases h
  · have := recman_frame hu
    exact ⟨this.outside, this.bytes⟩
  · exact recman_frame hu

theorem recordToggle_total {c : Config} {s : State} (h : BufferOk c s) :
    ∃ t, recordToggle c s = .ok t ∧ BufferOk c t := by
  obtain ⟨r, t, hr, ht⟩ := recman_total true h
  exact ⟨t, by simp [recordToggle, hr], ht⟩

theorem recordToggle_frame {c : Config} {s t : State} (h : recordToggle c s = .ok t) : AccFrame s t := by
  obtain ⟨r, hr⟩ := recordToggle_cases h
  exact recman_frame hr

/-! ## FEED, by STATE and class -/

theorem feed_done (c : Config) (w : Width) {s : State} (h : s.state = .done) : feed c w s = .ok s := by
  simp [feed, isDone, h]

theorem feed_live (c : Config) (w : Width) {s : State} (h : s.state ≠ .done) :
    feed c w s = respond c (decodeV3 c (classify w) s) := by
  simp [feed, isDone, h]

theorem decodeV3_gap (c : Config) (s : State) : decodeV3 c .gap s = .ok (gapOutcome s, s) := by
  simp [decodeV3]

theorem feed_gap_complete (c : Config) {w : Width} {s : State} (h : s.state ≠ .done) (hw : classify w = .gap)
    (hb : inShortBand s.totalBits = true) : feed c w s = complete c s := by
  simp [feed_live c w h, hw, decodeV3_gap, gapOutcome, hb, respond]

theorem feed_gap_invalid (c : Config) {w : Width} {s : State} (h : s.state ≠ .done) (hw : classify w = .gap)
    (hb : inShortBand s.totalBits = false) : feed c w s = .ok (doReset s) := by
  simp [feed_live c w h, hw, decodeV3_gap, gapOutcome, hb, respond]

/-- The answer to the full-frame test. -/
theorem respond_fullFrameTest (c : Config) (s : State) :
    respond c (.ok (fullFrameTest s)) = if isFullFrame s.totalBits then complete c s else .ok s := by
  unfold fullFrameTest; split <;> rfl

theorem respond_branch (c : Config) (s : State) :
    respond c (thenFullFrameTest (.ok s)) = if isFullFrame s.totalBits then complete c s else .ok s :=
  respond_fullFrameTest c s

theorem respond_branch_error (c : Config) (f : Fault) : respond c (thenFullFrameTest (.error f)) = .error f := rfl

theorem feed_unknown_long (c : Config) {w : Width} {s : State} (h : s.state = .unknown) (hw : classify w = .long) :
    feed c w s = respond c (.ok (fullFrameTest (countPreamble s))) := by
  rw [feed_live c w (by simp [h]), hw]; simp [decodeV3, h]

theorem feed_sync (c : Config) {w : Width} {s : State} (h : s.state = .unknown) (hw : classify w = .short)
    (hf : preambleSeen s.flip = true) : feed c w s = respond c (thenFullFrameTest (preambleFound c s)) := by
  rw [feed_live c w (by simp [h]), hw]; simp [decodeV3, h, hf]

theorem feed_early (c : Config) {w : Width} {s : State} (h : s.state = .unknown) (hw : classify w = .short)
    (hf : preambleSeen s.flip = false) : feed c w s = .ok (doReset s) := by
  rw [feed_live c w (by simp [h]), hw]; simp [decodeV3, h, hf, respond]

theorem feed_ok_short (c : Config) {w : Width} {s : State} (h : s.state = .ok) (hw : classify w = .short) :
    feed c w s = respond c (.ok (fullFrameTest (firstHalf s))) := by
  rw [feed_live c w (by simp [h]), hw]; simp [decodeV3, h]

theorem feed_ok_long (c : Config) {w : Width} {s : State} (h : s.state = .ok) (hw : classify w = .long) :
    feed c w s = respond c (thenFullFrameTest (recordToggle c s)) := by
  rw [feed_live c w (by simp [h]), hw]; simp [decodeV3, h]

theorem feed_t0_short (c : Config) {w : Width} {s : State} (h : s.state = .t0) (hw : classify w = .short) :
    feed c w s = respond c (thenFullFrameTest (secondHalf c s)) := by
  rw [feed_live c w (by simp [h]), hw]; simp [decodeV3, h]

theorem feed_t0_long (c : Config) {w : Width} {s : State} (h : s.state = .t0) (hw : classify w = .long) :
    feed c w s = .ok (doReset s) := by
  rw [feed_live c w (by simp [h]), hw]; simp [decodeV3, h, respond]

theorem feed_reserved (c : Config) {w : Width} {s : State} (h : isReserved s.state = true) (hw : classify w ≠ .gap) :
    feed c w s = .ok (doReset s) := by
  have hd : s.state ≠ .done := by intro e; simp [e, isReserved] at h
  rw [feed_live c w hd]
  cases hs : s.state <;> simp [hs, isReserved] at h <;>
    cases hc : classify w <;> simp [hc] at hw <;> simp [decodeV3, hs, respond]

end Sys2Proof.Machine
end

