-- ==== Sys2Proof/Tests/Slice0.lean ====
section
/-! SUPPORT. Tests on single steps, with expected results from `spec/95_test_vectors.md` and from the encodings of
`spec/30_encoding.md`, and a witness for the hypotheses of every statement that has some. -/

namespace Sys2Proof.Tests
open Sys2Proof.Machine

/-! ## Helpers -/

/-- A buffer of the given size, every byte of which is `x`. -/
def filled (size : Nat) (x : Byte) : Memory := (List.range size).map fun a => (a, x)

/-- The block with STATE / FLIP / TOTAL_BITS / BITS / POS and 31 bytes `x`. -/
def block (d : DecoderState) (f : BitVec 6) (n : BitVec 8) (k : BitVec 3) (p : BitVec 5) (x : Byte) : State :=
  { state := d, flip := f, totalBits := n, bits := k, pos := p, data := filled 31 x, pending := [], observed := [],
    draws := 1 }

def nextOf (o : Host.Outcome State Fault Refusal) : Option State :=
  match o with
  | .next s    => some s
  | .fault _   => none
  | .refused _ => none

/-- What a test looks at: the five registers, as the vectors write them, and one byte. -/
structure Seen where
  state     : DecoderState
  flip      : BitVec 6
  totalBits : BitVec 8
  bits      : BitVec 3
  pos       : BitVec 5
  byte      : Option Byte
  deriving DecidableEq, Repr

/-- What is seen after an instruction. -/
def result (i : Instr) (a : Nat) (s : State) : Option Seen :=
  (nextOf (exec i s)).map fun t => ⟨t.state, t.flip, t.totalBits, t.bits, t.pos, Memory.read t.data a⟩

theorem exists_next {o : Host.Outcome State Fault Refusal} (P : State → Prop) [DecidablePred P]
    (h : (nextOf o).any (fun t => decide (P t)) = true) : ∃ t, o = .next t ∧ P t := by
  cases o with
  | next s => exact ⟨s, rfl, by simpa [nextOf] using h⟩
  | fault f => simp [nextOf] at h
  | refused r => simp [nextOf] at h

/-- The invariant as a check. -/
def invCheck (c : Config) (s : State) : Bool :=
  Memory.wf c s.data && decide (s.pos.toNat < c.cap) && decide (s.flip.toNat ≤ 32) &&
  decide (s.totalBits.toNat = 8 * s.pos.toNat + s.bits.toNat) &&
  match s.state with
  | .unknown => decide (s.totalBits = 0#8 ∧ s.bits = 0#3 ∧ s.pos = 0#5)
  | .ok      => midCheck s
  | .t0      => midCheck s
  | .done    => decide (s.bits = 0#3 ∧ 40 ≤ s.totalBits.toNat ∧ s.totalBits.toNat ≤ 104 ∧ s.flip.toNat ≤ 1 ∧
      recordedBit s 0 = some false)
  | .t1      => false
  | .t2      => false
  | .t3      => false
  | .code7   => false
where
  midCheck (s : State) : Bool :=
    decide (1 ≤ s.totalBits.toNat ∧ s.totalBits.toNat ≤ 103 ∧ s.flip.toNat ≤ 1 ∧ recordedBit s 0 = some false ∧
      recordedBit s (s.totalBits.toNat - 1) = some (flipFlag s.flip))

theorem inv_of_check {c : Config} {s : State} (h : invCheck c s = true) : Inv c s := by
  simp only [invCheck, Bool.and_eq_true, decide_eq_true_eq] at h
  obtain ⟨⟨⟨⟨h1, h2⟩, h3⟩, h4⟩, h5⟩ := h
  refine ⟨⟨h1, h2⟩, h3, h4, ?_⟩
  unfold StateAgrees
  cases hs : s.state <;> simp only [hs, invCheck.midCheck, decide_eq_true_eq, Bool.false_eq_true] at h5 <;> exact h5

/-! ## WellFormed refuses what is ill-formed -/

theorem test_wf_feedGapLow : WellFormed (.feedGapLow 200) = false ∧ WellFormed (.feedGapLow 199) = true := by decide
theorem test_wf_feedShort :
    WellFormed (.feedShort 199) = false ∧ WellFormed (.feedShort 700) = false ∧ WellFormed (.feedShort 200) = true ∧
      WellFormed (.feedShort 699) = true := by decide
theorem test_wf_feedLong :
    WellFormed (.feedLong 699) = false ∧ WellFormed (.feedLong 1200) = false ∧ WellFormed (.feedLong 700) = true ∧
      WellFormed (.feedLong 1199) = true := by decide
theorem test_wf_feedGapHigh : WellFormed (.feedGapHigh 1199) = false ∧ WellFormed (.feedGapHigh 65535) = true := by
  decide
theorem test_wf_stepReserved : WellFormed (.stepReserved .gap) = false ∧ WellFormed (.stepReserved .short) = true := by
  decide
theorem test_wf_stepFullFrame : WellFormed (.stepFullFrame .gap) = false ∧ WellFormed (.stepFullFrame .long) = true := by
  decide
theorem test_wf_frameBits :
    WellFormed (.frameBits []) = false ∧ WellFormed (.frameBits [true]) = false ∧
      WellFormed (.frameBits [false, true]) = true := by decide
theorem test_wf_frameBytes :
    WellFormed (.frameBytes []) = false ∧ WellFormed (.frameBytes [0x5B]) = false ∧
      WellFormed (.frameBytes [0x5A, 0x83]) = true := by decide
theorem test_wf_rep :
    WellFormed (.rep 2 (.pseudo (.frameBits [true]))) = false ∧
      WellFormed (.rep 2 (.seq (.op .idle) (.pseudo (.frameBytes [1])))) = false ∧
      WellFormed (.rep 0 (.rep 3 (.op .reset))) = true := by decide

/-! ## Decoding: the words of R83, R90, R94 and R96 bit by bit, `clear`, `pulse_valid`, then the sixteen width bits -/

theorem test_decode_feed_900 : decode [0b10000100, 0b00000011, 0b01] = .ok (.feed 900) := by rfl
theorem test_decode_reset : decode [0b00000000, 0b00000000, 0b10] = .ok .reset := by rfl
theorem test_decode_reset_ignored_bits : decode [0b11111111, 0b11111111, 0b11] = .ok .reset := by rfl
theorem test_decode_idle : decode [0b00000000, 0b00000000, 0b00] = .ok .idle := by rfl
theorem test_decode_idle_ignored_bits : decode [0b11111111, 0b11111111, 0b00] = .ok .idle := by rfl
theorem test_decode_wider : decode [0b00000000, 0b00000000, 0b100] = .error .widerThanEighteenBits := by rfl
theorem test_decode_short_list : decode [0b10000100, 0b00000011] = .error .notThreeBytes := by rfl
theorem test_decode_table_word :
    decodeTableWord 24 0b010000000011000111 = some (.feed 199) ∧ decodeTableWord 24 0b110000000011000111 = some .reset ∧
      decodeTableWord 24 0b000000000011000111 = some .idle := by decide
/-- V1.13. -/
theorem test_decode_hwreset_overrides : (PortEvent.clock true 0x3FFFF#18).decode = .hwreset := by decide
theorem test_decode_observations :
    PortEvent.readDone.decode = .isdone ∧ (PortEvent.readFrame (.byteAt 31)).decode = .getframe (.byteAt 31) := by decide
/-- R95: the words of the pseudo-operations: 900 is `0x384`, 400 is `0x190`, 1500 is `0x5DC`. -/
theorem test_encode_pseudo :
    encodeWords .long = [0x10384#18] ∧ encodeWords .short = [0x10190#18] ∧ encodeWords .gap = [0x105DC#18] ∧
      encodeWords .sync = [0x10190#18] ∧ encodeWords .toggle = [0x10384#18] ∧
      encodeWords .same = [0x10190#18, 0x10190#18] ∧ encodeWords (.preamble 2) = [0x10384#18, 0x10384#18] := by decide
/-- R95: the bits 0, 1, 1, 0 are SYNC, TOGGLE, SAME, TOGGLE; the byte `5A` is 0, 1, 0, 1, 1, 0, 1, 0. -/
theorem test_encode_frame :
    encodeWords (.frameBits [false, true, true, false]) =
        [0x10190#18, 0x10384#18, 0x10190#18, 0x10190#18, 0x10384#18] ∧
      (Instr.frameBytes [0x5A]).expand =
        (Instr.frameBits [false, true, false, true, true, false, true, false]).expand := by decide
/-- R80: the lines of the map and the micro-operations have no encoding. -/
theorem test_encode_internal : encode .stepOkLong = [] ∧ encode (.recbit true) = [] := by decide
theorem test_withFetchWord :
    nextInstr ((block .ok 0 1 1 0 0).withFetchWord 24 0x10384) = .feed 900 ∧
      ((block .ok 0 1 1 0 0).withFetchWord 24 0x10384).taken = block .ok 0 1 1 0 0 := by decide

/-! ## One step of each instruction -/

/-- V7.5. -/
theorem test_reset : result .reset 0 (block .t0 0 17 1 2 0xAA) = some ⟨.unknown, 0, 0, 0, 0, some 0xAA⟩ := by decide
/-- V4.4. -/
theorem test_feed_sync : result (.feed 400) 0 (block .unknown 32 0 0 0 0xAA) = some ⟨.ok, 0, 1, 1, 0, some 0x55⟩ := by
  decide
/-- V2.5: the overflow, from a state no run reaches. -/
theorem test_feed_overflow :
    result (.feed 900) 30 (block .ok 0 247 7 30 0xFE) = some ⟨.unknown, 0, 0, 0, 0, some 0xFF⟩ := by decide
/-- V7.6. -/
theorem test_idle : result .idle 3 (block .t0 1 2 2 0 0xAA) = some ⟨.t0, 1, 2, 2, 0, some 0xAA⟩ := by decide
/-- V7.7: the registers; DATA is arbitrary. -/
theorem test_hwreset :
    ∃ t, exec .hwreset (block .done 1 104 0 13 0) = .next t ∧ t.state = .unknown ∧ t.flip = 0 ∧ t.totalBits = 0 ∧
      t.bits = 0 ∧ t.pos = 0 := exists_next _ (by decide)
/-- V7.2. -/
theorem test_isdone :
    (nextOf (exec .isdone (block .done 1 104 0 13 0))).map State.observed = some [.isDone true] ∧
      (nextOf (exec .isdone (block .t0 0 3 3 0 0))).map State.observed = some [.isDone false] := by decide
/-- R112, on five bytes. -/
theorem test_getframe :
    (nextOf (exec (.getframe .whole) (block .done 0 40 0 5 0xA2))).map State.observed =
      some [.frame 5 [0xA2, 0xA2, 0xA2, 0xA2, 0xA2]] := by decide
/-- R55. -/
theorem test_getframe_byte :
    (nextOf (exec (.getframe (.byteAt 4)) (block .done 0 40 0 5 0xA2))).map State.observed = some [.port 5 4 0xA2] := by
  decide
/-- V4.7. -/
theorem test_feedGapLow :
    result (.feedGapLow 100) 0 (block .unknown 32 0 0 0 0xAA) = some ⟨.unknown, 0, 0, 0, 0, some 0xAA⟩ := by decide
/-- V6.6: the 104th bit by the second SHORT; `CB` becomes `E5`. -/
theorem test_feedShort :
    result (.feedShort 699) 12 (block .t0 1 103 7 12 0xCB) = some ⟨.done, 1, 104, 0, 13, some 0xE5⟩ := by decide
/-- V6.7: the 104th bit by a LONG; `4B` becomes `A5`. -/
theorem test_feedLong :
    result (.feedLong 700) 12 (block .ok 0 103 7 12 0x4B) = some ⟨.done, 1, 104, 0, 13, some 0xA5⟩ := by decide
/-- V6.8: one padding bit; `4B` becomes `25`. -/
theorem test_feedGapHigh :
    result (.feedGapHigh 1200) 12 (block .ok 0 103 7 12 0x4B) = some ⟨.done, 0, 104, 0, 13, some 0x25⟩ := by decide
/-- V7.1. -/
theorem test_stepDoneAny :
    result (.stepDoneAny .gap) 0 (block .done 0 40 0 5 0xA2) = some ⟨.done, 0, 40, 0, 5, some 0xA2⟩ := by decide
/-- V6.5: seven padding bits; `D5` becomes `01`. -/
theorem test_stepGapComplete :
    result .stepGapComplete 5 (block .ok 1 41 1 5 0xD5) = some ⟨.done, 1, 48, 0, 6, some 0x01⟩ := by decide
/-- V6.1. -/
theorem test_stepGapInvalid :
    result .stepGapInvalid 4 (block .ok 1 39 7 4 0x80) = some ⟨.unknown, 0, 0, 0, 0, some 0x80⟩ := by decide
/-- V4.2, V4.3: the count reaches 32 and stays there. -/
theorem test_stepUnknownLong :
    result .stepUnknownLong 0 (block .unknown 31 0 0 0 0) = some ⟨.unknown, 32, 0, 0, 0, some 0⟩ ∧
      result .stepUnknownLong 0 (block .unknown 32 0 0 0 0) = some ⟨.unknown, 32, 0, 0, 0, some 0⟩ := by decide
/-- V4.4. -/
theorem test_stepUnknownShortSync :
    result .stepUnknownShortSync 0 (block .unknown 32 0 0 0 0xAA) = some ⟨.ok, 0, 1, 1, 0, some 0x55⟩ := by decide
/-- V4.5. -/
theorem test_stepUnknownShortEarly :
    result .stepUnknownShortEarly 0 (block .unknown 31 0 0 0 0xAA) = some ⟨.unknown, 0, 0, 0, 0, some 0xAA⟩ := by
  decide
/-- V5.3. -/
theorem test_stepOkShort : result .stepOkShort 0 (block .ok 0 3 3 0 0x55) = some ⟨.t0, 0, 3, 3, 0, some 0x55⟩ := by
  decide
/-- V5.1, V5.2. -/
theorem test_stepOkLong :
    result .stepOkLong 0 (block .ok 0 1 1 0 0x55) = some ⟨.ok, 1, 2, 2, 0, some 0xAA⟩ ∧
      result .stepOkLong 0 (block .ok 1 2 2 0 0xAA) = some ⟨.ok, 0, 3, 3, 0, some 0x55⟩ := by decide
/-- V5.4, V5.7. -/
theorem test_stepT0Short :
    result .stepT0Short 0 (block .t0 0 3 3 0 0x55) = some ⟨.ok, 0, 4, 4, 0, some 0x2A⟩ ∧
      result .stepT0Short 0 (block .t0 1 2 2 0 0xAA) = some ⟨.ok, 1, 3, 3, 0, some 0xD5⟩ := by decide
/-- V5.6. -/
theorem test_stepT0Long : result .stepT0Long 0 (block .t0 0 4 4 0 0x2A) = some ⟨.unknown, 0, 0, 0, 0, some 0x2A⟩ := by
  decide
/-- R160: a reserved state resets, and FEED goes there. -/
theorem test_stepReserved :
    result (.stepReserved .short) 0 (block .t2 1 9 1 1 0x2A) = some ⟨.unknown, 0, 0, 0, 0, some 0x2A⟩ ∧
      result (.feed 400) 0 (block .t2 1 9 1 1 0x2A) = some ⟨.unknown, 0, 0, 0, 0, some 0x2A⟩ := by decide
/-- R161. -/
theorem test_stepFullFrame :
    result (.stepFullFrame .long) 0 (block .ok 1 104 0 13 0x80) = some ⟨.done, 1, 104, 0, 13, some 0x80⟩ := by decide
/-- V2.2. -/
theorem test_recbit :
    result (.recbit true) 0 (block .ok 0 1 1 0 0x00) = some ⟨.ok, 0, 2, 2, 0, some 0x80⟩ ∧
      result (.recbit false) 0 (block .ok 0 7 7 0 0x01) = some ⟨.ok, 0, 8, 0, 1, some 0x00⟩ := by decide
/-- V2.3. -/
theorem test_recman :
    result (.recman true) 0 (block .ok 1 1 1 0 0x00) = some ⟨.ok, 0, 2, 2, 0, some 0x00⟩ ∧
      result (.recman false) 0 (block .ok 1 1 1 0 0x00) = some ⟨.ok, 1, 2, 2, 0, some 0x80⟩ := by decide
/-- V2.4, k = 4 and k = 1. -/
theorem test_pad :
    result .pad 0 (block .ok 0 4 4 0 0xD5) = some ⟨.ok, 0, 8, 0, 1, some 0x0D⟩ ∧
      result .pad 0 (block .ok 0 1 1 0 0xD5) = some ⟨.ok, 0, 8, 0, 1, some 0x01⟩ := by decide
/-- R114. -/
theorem test_doReset :
    result .doReset 0 (block .done 1 104 0 13 0xAA) = some ⟨.unknown, 0, 0, 0, 0, some 0xAA⟩ := by decide
/-- V5.1. -/
theorem test_long : result .long 0 (block .ok 0 1 1 0 0x55) = some ⟨.ok, 1, 2, 2, 0, some 0xAA⟩ := by decide
/-- V5.3. -/
theorem test_short : result .short 0 (block .ok 0 3 3 0 0x55) = some ⟨.t0, 0, 3, 3, 0, some 0x55⟩ := by decide
/-- V6.3. -/
theorem test_gap : result .gap 0 (block .ok 0 40 0 5 0xA2) = some ⟨.done, 0, 40, 0, 5, some 0xA2⟩ := by decide
/-- R95 with R153. -/
theorem test_preamble :
    result (.preamble 3) 0 (block .unknown 30 0 0 0 0) = some ⟨.unknown, 32, 0, 0, 0, some 0⟩ := by decide
/-- V4.4. -/
theorem test_sync : result .sync 0 (block .unknown 32 0 0 0 0xAA) = some ⟨.ok, 0, 1, 1, 0, some 0x55⟩ := by decide
/-- V5.2. -/
theorem test_toggle : result .toggle 0 (block .ok 1 2 2 0 0xAA) = some ⟨.ok, 0, 3, 3, 0, some 0x55⟩ := by decide
/-- V5.3 then V5.4. -/
theorem test_same : result .same 0 (block .ok 0 3 3 0 0x55) = some ⟨.ok, 0, 4, 4, 0, some 0x2A⟩ := by decide
/-- V4.4, V5.1, V5.2 as the bits 0, 1, 0. -/
theorem test_frameBits :
    result (.frameBits [false, true, false]) 0 (block .unknown 32 0 0 0 0xAA) =
      some ⟨.ok, 0, 3, 3, 0, some 0x55⟩ := by decide
/-- V2.1: the byte `5A` on a stale `AA`. -/
theorem test_frameBytes :
    result (.frameBytes [0x5A]) 0 (block .unknown 32 0 0 0 0xAA) = some ⟨.ok, 0, 8, 0, 1, some 0x5A⟩ := by decide
/-- R94: the body twice, in order. -/
theorem test_rep :
    result (.rep 2 (.seq (.pseudo .toggle) (.op .idle))) 0 (block .ok 0 1 1 0 0x55) =
      some ⟨.ok, 0, 3, 3, 0, some 0x55⟩ := by decide

/-! ## Witnesses: the hypotheses of each statement are met -/

/-- An attempt of `n` bits: all 0 with FLIP = 0, and with FLIP = 1 each byte's last bit 1. -/
def attempt (d : DecoderState) (f : BitVec 6) (n : Nat) : State :=
  block d f (BitVec.ofNat 8 n) (BitVec.ofNat 3 n) (BitVec.ofNat 5 (n / 8)) (if f = 1#6 then 0x80 else 0x00)

/-- The block built with 14 and with 32 bytes. -/
def config14 : Config := { cap := 14, cap_ok := by decide }
def config32 : Config := { cap := 32, cap_ok := by decide }

theorem witness_DecodeFollowsPriority :
    (0x20000#18).getLsbD 17 = true ∧ (0x3FFFF#18).getLsbD 17 = true ∧
      ((0x10000#18).getLsbD 17 = false ∧ (0x10000#18).getLsbD 16 = true) ∧
      ((0x1FFFF#18).getLsbD 17 = false ∧ (0x1FFFF#18).getLsbD 16 = true) ∧
      ((0x0FFFF#18).getLsbD 17 = false ∧ (0x0FFFF#18).getLsbD 16 = false) := by decide

theorem witness_EveryWordDecodes :
    4 ≤ (4 : Byte).toNat ∧ 4 ≤ (255 : Byte).toNat ∧ ([] : List Byte).length ≠ 3 ∧ ([0, 0, 0, 0] : List Byte).length ≠ 3 := by
  decide

theorem witness_DecodeOfEncode :
    WellFormed (.feedLong 1199) = true ∧ WellFormed (.rep 2 (.pseudo (.frameBits [false]))) = true ∧
      (BoundaryOp.feed 65535).word = some 0x1FFFF#18 ∧ BoundaryOp.reset.word = some 0x20000#18 ∧
      decodeWord 0x10000#18 = .feed 0 ∧ decodeWord 0x1FFFF#18 = .feed 65535 := by decide

theorem witness_StepRunsDecodedInstr :
    ({ attempt .ok 0 1 with pending := [.clock false 0x10384#18, .readDone] } : State).pending =
        .clock false 0x10384#18 :: [.readDone] ∧
      (attempt .ok 0 1).pending = [] := by decide

theorem witness_PlacedWordRunsNext : 0 < 2 ^ 18 ∧ 2 ^ 18 - 1 < 2 ^ 18 := by decide

theorem witness_TraceRunsStepByStep :
    (Instr.rep 2 (.seq (.pseudo .toggle) (.op (.getframe .whole)))).asTrace.isSome = true ∧
      (Instr.frameBits []).asTrace.isSome = true := by decide

theorem witness_StepKeepsInvariant :
    ∃ s t, Inv Config.hw s ∧ step s = .next t ∧ t.state = .done :=
  let s : State := { attempt .ok 0 103 with pending := [.clock false 0x10384#18] }
  have ⟨t, e, h⟩ := exists_next (o := step s) (fun t => t.state = .done) (by decide)
  ⟨s, t, inv_of_check (by decide), e, h⟩

theorem witness_EveryAdmittedCapRuns :
    Inv config14 { attempt .ok 0 103 with data := filled 14 0 } ∧ Inv config32 { attempt .t0 1 1 with
      data := filled 32 0, flip := 0#6 } :=
  ⟨inv_of_check (by decide), inv_of_check (by decide)⟩

/-- At the least CAP and the 104th bit, the first bit, and the longest padding. -/
theorem witness_OverflowIsDeadLogic :
    (∃ r t, recman config14 true { attempt .ok 0 103 with data := filled 14 0 } = .ok (r, t)) ∧
      (attempt .ok 0 103).state ≠ .done ∧ Inv config14 { attempt .ok 0 103 with data := filled 14 0 } ∧
      (∃ r t, pad config14 { attempt .ok 0 41 with data := filled 14 0 } = .ok (r, t)) ∧
      inShortBand (attempt .ok 0 41).totalBits = true ∧ Inv config14 { attempt .ok 0 41 with data := filled 14 0 } :=
  ⟨⟨_, _, rfl⟩, by decide, inv_of_check (by decide), ⟨_, _, rfl⟩, by decide, inv_of_check (by decide)⟩

theorem witness_EveryInstructionCompletes :
    BufferOk Config.hw (block .t2 0 0 0 0 0) ∧ BufferOk Config.hw (block .ok 0 247 7 30 0xFE) :=
  ⟨⟨by decide, by decide⟩, ⟨by decide, by decide⟩⟩

theorem witness_TraceOperationsKeepInvariant :
    (Instr.rep 3 (.pseudo .same)).asTrace.isSome = true ∧ Inv Config.hw (attempt .t0 1 39) :=
  ⟨by decide, inv_of_check (by decide)⟩

theorem witness_ResetIsIdempotent :
    ∀ i ∈ [Instr.reset, .feed 0, .feed 699], i = .reset ∨ ∃ w, i = .feed w ∧ classify w ≠ .long := by
  intro i hi
  simp only [List.mem_cons, List.not_mem_nil, or_false] at hi
  obtain rfl | rfl | rfl := hi
  · exact .inl rfl
  · exact .inr ⟨0, rfl, by decide⟩
  · exact .inr ⟨699, rfl, by decide⟩

/-- The longest and the shortest frame, and in them the last byte. -/
theorem witness_GetframeReturnsFrame :
    (BufferOk Config.hw (attempt .done 1 104) ∧ (attempt .done 1 104).state = .done ∧
      (12#5).toNat < (attempt .done 1 104).pos.toNat ∧
      Memory.read (attempt .done 1 104).data (12#5).toNat = some 0x80) ∧
    (BufferOk Config.hw (attempt .done 0 40) ∧ (attempt .done 0 40).state = .done ∧
      (4#5).toNat < (attempt .done 0 40).pos.toNat ∧ Memory.read (attempt .done 0 40).data (4#5).toNat = some 0) :=
  ⟨⟨⟨by decide, by decide⟩, by decide, by decide, by decide⟩, ⟨by decide, by decide⟩, by decide, by decide, by decide⟩

theorem witness_OutputsShowState :
    Memory.read (attempt .ok 1 2).data (0#5).toNat = some 0x80 ∧
      Memory.read (attempt .ok 1 2).data (30#5).toNat = some 0x80 := by decide

theorem witness_ClassifyTable :
    (0 : Width).toNat < 200 ∧ (199 : Width).toNat < 200 ∧
      (200 ≤ (200 : Width).toNat ∧ (200 : Width).toNat < 700) ∧ (200 ≤ (699 : Width).toNat ∧ (699 : Width).toNat < 700) ∧
      (700 ≤ (700 : Width).toNat ∧ (700 : Width).toNat < 1200) ∧
      (700 ≤ (1199 : Width).toNat ∧ (1199 : Width).toNat < 1200) ∧
      1200 ≤ (1200 : Width).toNat ∧ 1200 ≤ (65535 : Width).toNat := by decide

theorem witness_OperandClassesAreFeed :
    WellFormed (.feedGapLow 199) = true ∧ WellFormed (.feedShort 200) = true ∧ WellFormed (.feedShort 699) = true ∧
      WellFormed (.feedLong 700) = true ∧ WellFormed (.feedLong 1199) = true ∧ WellFormed (.feedGapHigh 1200) = true ∧
      WellFormed (.feedGapHigh 65535) = true ∧ classify 199 = classify 1200 := by decide

theorem witness_FeedCompletesWithFrame :
    BufferOk Config.hw (attempt .ok 0 103) ∧ BufferOk Config.hw (block .ok 0 247 7 30 0xFE) ∧
      Instr.feedGapHigh 5 ∈ [Instr.feed 5, .feedGapLow 5, .feedShort 5, .feedLong 5, .feedGapHigh 5] :=
  ⟨⟨by decide, by decide⟩, ⟨by decide, by decide⟩, by decide⟩

theorem witness_FeedInDoneIsNoop : (attempt .done 0 40).state = .done := by decide

/-- One for each cause of R181, and for each clause. -/
theorem witness_InvalidPulseResets :
    (PulseInvalid 1200 (attempt .ok 1 39) ∧ PulseInvalid 400 (block .unknown 31 0 0 0 0) ∧
      PulseInvalid 700 (attempt .t0 0 60) ∧ PulseInvalid 900 (block .code7 0 0 0 0 0)) ∧
    ((attempt .ok 1 39).state ≠ .done ∧
      ¬ (40 ≤ (attempt .ok 1 39).totalBits.toNat ∧ (attempt .ok 1 39).totalBits.toNat ≤ 103)) ∧
    ((block .ok 1 104 0 13 0).state ≠ .done ∧
      ¬ (40 ≤ (block .ok 1 104 0 13 0).totalBits.toNat ∧ (block .ok 1 104 0 13 0).totalBits.toNat ≤ 103)) ∧
    ((block .unknown 31 0 0 0 0).state = .unknown ∧ (block .unknown 31 0 0 0 0).flip.toNat < 32) ∧
    (attempt .t0 0 60).state = .t0 ∧ PulseClass.short ≠ .gap ∧
    ((block .t1 0 0 0 0 0).state = .t1 ∧ (block .t2 0 0 0 0 0).state = .t2 ∧ (block .t3 0 0 0 0 0).state = .t3 ∧
      (block .code7 0 0 0 0 0).state = .code7) := by
  refine ⟨⟨?_, ?_, ?_, ?_⟩, by decide, by decide, by decide, by decide, by decide, by decide⟩
  · show inShortBand _ = false; decide
  · show preambleSeen _ = false; decide
  · exact True.intro
  · exact True.intro

theorem witness_GapBelowFortyResets :
    (attempt .t0 1 39).state ≠ .done ∧ (attempt .t0 1 39).totalBits.toNat < 40 ∧ (199 : Width).toNat < 200 ∧
      1200 ≤ (1200 : Width).toNat := by decide

theorem witness_LongInUnknownCounts :
    (block .unknown 63 0 0 0 0).state = .unknown ∧ classify 700 = .long ∧
      (block .unknown 63 0 0 0 0).totalBits.toNat ≠ 104 := by decide

/-- The next bit fits, does not fit, and the state of a run. -/
theorem witness_ShortAfterPreambleSynchronises :
    ((block .unknown 32 0 0 0 0xAA).state = .unknown ∧ 32 ≤ (block .unknown 32 0 0 0 0xAA).flip.toNat ∧
      Memory.read (block .unknown 32 0 0 0 0xAA).data (0#5).toNat = some 0xAA ∧
      HasRoom Config.hw (block .unknown 32 0 0 0 0xAA) ∧ Inv Config.hw (block .unknown 32 0 0 0 0xAA) ∧
      classify 699 = .short) ∧
    ((block .unknown 63 247 7 30 0xFE).state = .unknown ∧ 32 ≤ (block .unknown 63 247 7 30 0xFE).flip.toNat ∧
      Memory.read (block .unknown 63 247 7 30 0xFE).data (30#5).toNat = some 0xFE ∧
      ¬ HasRoom Config.hw (block .unknown 63 247 7 30 0xFE)) := by
  refine ⟨⟨by decide, by decide, by decide, ?_, inv_of_check (by decide), by decide⟩, by decide, by decide, by decide, ?_⟩
    <;> unfold HasRoom <;> decide

theorem witness_ShortInOkWaits :
    (attempt .ok 1 103).state = .ok ∧ classify 200 = .short ∧ (attempt .ok 1 103).totalBits.toNat ≠ 104 := by decide

theorem witness_LongInOkRecordsToggle :
    ((attempt .ok 0 103).state = .ok ∧ Memory.read (attempt .ok 0 103).data (attempt .ok 0 103).pos.toNat = some 0 ∧
      HasRoom Config.hw (attempt .ok 0 103) ∧ Inv Config.hw (attempt .ok 0 103) ∧ classify 1199 = .long) ∧
    ((block .ok 0 247 7 30 0xFE).state = .ok ∧ Memory.read (block .ok 0 247 7 30 0xFE).data 30 = some 0xFE ∧
      ¬ HasRoom Config.hw (block .ok 0 247 7 30 0xFE)) := by
  refine ⟨⟨by decide, by decide, ?_, inv_of_check (by decide), by decide⟩, by decide, by decide, ?_⟩
    <;> unfold HasRoom <;> decide

theorem witness_ShortInT0RecordsSame :
    ((attempt .t0 1 103).state = .t0 ∧ Memory.read (attempt .t0 1 103).data (attempt .t0 1 103).pos.toNat = some 0x80 ∧
      HasRoom Config.hw (attempt .t0 1 103) ∧ Inv Config.hw (attempt .t0 1 103) ∧ classify 200 = .short) ∧
    ((block .t0 0 247 7 30 0xFE).state = .t0 ∧ Memory.read (block .t0 0 247 7 30 0xFE).data 30 = some 0xFE ∧
      ¬ HasRoom Config.hw (block .t0 0 247 7 30 0xFE)) := by
  refine ⟨⟨by decide, by decide, ?_, inv_of_check (by decide), by decide⟩, by decide, by decide, ?_⟩
    <;> unfold HasRoom <;> decide

/-- Both ends of the band. -/
theorem witness_GapInBandCompletes :
    (Inv Config.hw (attempt .ok 0 40) ∧ (attempt .ok 0 40).state ≠ .done ∧ classify 1200 = .gap ∧
      40 ≤ (attempt .ok 0 40).totalBits.toNat ∧ (attempt .ok 0 40).totalBits.toNat ≤ 103 ∧
      Memory.read (attempt .ok 0 40).data (attempt .ok 0 40).pos.toNat = some 0) ∧
    (Inv Config.hw (attempt .t0 1 103) ∧ (attempt .t0 1 103).state ≠ .done ∧ classify 199 = .gap ∧
      40 ≤ (attempt .t0 1 103).totalBits.toNat ∧ (attempt .t0 1 103).totalBits.toNat ≤ 103 ∧
      Memory.read (attempt .t0 1 103).data (attempt .t0 1 103).pos.toNat = some 0x80) :=
  ⟨⟨inv_of_check (by decide), by decide, by decide, by decide, by decide, by decide⟩,
    inv_of_check (by decide), by decide, by decide, by decide, by decide, by decide⟩

/-- The three instructions, and for the line of the full-frame test a whole byte, a partial byte, the last byte. -/
theorem witness_CompletionPadsThenDone :
    ((attempt .ok 0 40).state ≠ .done ∧ 40 ≤ (attempt .ok 0 40).totalBits.toNat ∧
      (attempt .ok 0 40).totalBits.toNat ≤ 103 ∧ (attempt .ok 0 40).bits = 0#3 ∧ classify 0 = .gap) ∧
    ((attempt .ok 0 103).state ≠ .done ∧ (attempt .ok 0 103).totalBits.toNat ≤ 103 ∧ (attempt .ok 0 103).bits ≠ 0#3 ∧
      Memory.read (attempt .ok 0 103).data 12 = some 0 ∧ (attempt .ok 0 103).pos.toNat + 1 ≠ Config.hw.cap) ∧
    ((block .ok 1 104 0 13 0).totalBits.toNat = 104 ∧ PulseClass.long ≠ .gap ∧ (block .ok 1 104 0 13 0).bits = 0#3) ∧
    ((block .ok 1 104 5 30 7).totalBits.toNat = 104 ∧ (block .ok 1 104 5 30 7).bits ≠ 0#3 ∧
      Memory.read (block .ok 1 104 5 30 7).data 30 = some 7 ∧
      (block .ok 1 104 5 30 7).pos.toNat + 1 = Config.hw.cap) := by decide

theorem witness_UnselectedLineChangesNothing :
    ((attempt .done 0 40).state = .done ∧ (attempt .done 0 40).state ≠ .unknown ∧ (attempt .done 0 40).state ≠ .ok ∧
      (attempt .done 0 40).state ≠ .t0 ∧ (attempt .done 0 40).totalBits.toNat ≠ 104) ∧
    ¬ (40 ≤ (attempt .ok 1 39).totalBits.toNat ∧ (attempt .ok 1 39).totalBits.toNat ≤ 103) ∧
    (40 ≤ (attempt .ok 1 103).totalBits.toNat ∧ (attempt .ok 1 103).totalBits.toNat ≤ 103) ∧
    (block .unknown 31 0 0 0 0).flip.toNat < 32 ∧ 32 ≤ (block .unknown 32 0 0 0 0).flip.toNat := by decide

theorem witness_FeedResultTrueIffComplete :
    Inv Config.hw (attempt .ok 0 103) ∧ ∃ t, exec (.feed 700) (attempt .ok 0 103) = .next t ∧ feedResult t = true :=
  ⟨inv_of_check (by decide), exists_next _ (by decide)⟩

theorem witness_TransitionTable :
    Inv Config.hw (attempt .t0 1 103) ∧ Inv Config.hw (block .unknown 31 0 0 0 0) ∧ Inv Config.hw (attempt .done 0 40) :=
  ⟨inv_of_check (by decide), inv_of_check (by decide), inv_of_check (by decide)⟩

theorem witness_DoneEnteredByFeedLeftByReset :
    (∃ s t, step s = .next t ∧ s.state ≠ .done ∧ t.state = .done) ∧
      ∃ s t, step s = .next t ∧ s.state = .done ∧ t.state ≠ .done :=
  have ⟨t, e, h⟩ := exists_next (o := step { attempt .ok 0 103 with pending := [.clock false 0x10384#18] })
    (fun t => t.state = .done) (by decide)
  have ⟨u, e', h'⟩ := exists_next (o := step { attempt .done 0 40 with pending := [.clock false 0x20000#18] })
    (fun t => t.state ≠ .done) (by decide)
  ⟨⟨_, t, e, by decide, h⟩, _, u, e', by decide, h'⟩

theorem witness_FrameSurvivesPulses :
    (attempt .done 0 40).state = .done ∧
      ∀ o ∈ [BoundaryOp.feed 900, .idle, .isdone, .getframe .whole], o ≠ .reset ∧ o ≠ .hwreset := by decide

theorem witness_OnlyFeedAndResetsWrite :
    (∃ t, perform Config.hw (.feed 900) (attempt .ok 0 1) = .next t ∧ t.data ≠ (attempt .ok 0 1).data) ∧
      ∃ t, perform Config.hw .reset (attempt .ok 0 1) = .next t ∧ ¬ SameBlock (attempt .ok 0 1) t :=
  have ⟨t, e, h⟩ := exists_next (o := perform Config.hw .reset (attempt .ok 0 1)) (fun t => t.state ≠ .ok) (by decide)
  ⟨exists_next _ (by decide), t, e, fun q => h q.1⟩

theorem witness_TotalBitsMonotone :
    Inv Config.hw (attempt .ok 0 41) ∧ ∃ t, exec (.feed 0) (attempt .ok 0 41) = .next t ∧ t.totalBits = 48#8 :=
  ⟨inv_of_check (by decide), exists_next _ (by decide)⟩

theorem witness_RecbitAppendsOrOverflows :
    (Memory.read (block .ok 0 247 7 30 0xFE).data (30#5).toNat = some 0xFE ∧
      ¬ HasRoom Config.hw (block .ok 0 247 7 30 0xFE)) ∧
    (Memory.read (block .ok 0 246 6 30 0xFE).data (30#5).toNat = some 0xFE ∧
      HasRoom Config.hw (block .ok 0 246 6 30 0xFE)) ∧
    HasRoom Config.hw (block .ok 0 239 7 29 0xFE) := by
  refine ⟨⟨by decide, ?_⟩, ⟨by decide, ?_⟩, ?_⟩ <;> unfold HasRoom <;> decide

theorem witness_RecmanStoresUpdatedFlag :
    (Memory.read (block .t0 1 247 7 30 0).data (30#5).toNat = some 0 ∧ ¬ HasRoom Config.hw (block .t0 1 247 7 30 0)) ∧
    (Memory.read (block .t0 1 8 0 1 0).data (1#5).toNat = some 0 ∧ HasRoom Config.hw (block .t0 1 8 0 1 0)) := by
  refine ⟨⟨by decide, ?_⟩, by decide, ?_⟩ <;> unfold HasRoom <;> decide

theorem witness_RecordingOutsideBufferFaults :
    Memory.read (block .ok 0 0 0 31 0).data (block .ok 0 0 0 31 0).pos.toNat = none := by decide

theorem witness_PadNetEffect :
    (block .ok 0 8 0 1 0).bits = 0#3 ∧
    ((block .ok 0 1 1 0 0xD5).bits ≠ 0#3 ∧ Memory.read (block .ok 0 1 1 0 0xD5).data 0 = some 0xD5 ∧
      (block .ok 0 1 1 0 0xD5).pos.toNat + 1 ≠ Config.hw.cap) ∧
    ((block .ok 0 247 7 30 0xD5).bits ≠ 0#3 ∧ Memory.read (block .ok 0 247 7 30 0xD5).data 30 = some 0xD5 ∧
      (block .ok 0 247 7 30 0xD5).pos.toNat + 1 = Config.hw.cap) := by decide

theorem witness_ByteHoldsBitsInArrivalOrder :
    ([false, true, false, true, true, false, true, false] : List Bool).length ≤ 8 ∧ ([] : List Bool).length ≤ 8 ∧
      (block .ok 0 0 0 0 0xAA).bits = 0#3 ∧ (block .ok 0 0 0 0 0xAA).pos.toNat + 1 ≠ Config.hw.cap ∧
      Memory.read (block .ok 0 0 0 0 0xAA).data 0 = some 0xAA := by decide

theorem witness_PreambleCountsToThirtyTwo :
    (block .unknown 0 0 0 0 0).state = .unknown ∧ (block .unknown 0 0 0 0 0).flip = 0#6 ∧
      (block .unknown 0 0 0 0 0).totalBits.toNat ≠ 104 := by decide

/-- The second bit, equal or not, and a later one. -/
theorem witness_FramePseudoOperationsExpand :
    WellFormed (.frameBits ([] ++ [false])) = true ∧ WellFormed (.frameBits ([false, true] ++ [true])) = true := by decide

theorem witness_ToggleComplementsSameCopies :
    (Inv Config.hw (attempt .ok 1 103) ∧ (attempt .ok 1 103).state = .ok ∧
      recordedBit (attempt .ok 1 103) ((attempt .ok 1 103).totalBits.toNat - 1) = some true) ∧
    (Inv Config.hw (attempt .ok 0 1) ∧ (attempt .ok 0 1).state = .ok ∧
      recordedBit (attempt .ok 0 1) ((attempt .ok 0 1).totalBits.toNat - 1) = some false) :=
  ⟨⟨inv_of_check (by decide), by decide, by decide⟩, inv_of_check (by decide), by decide, by decide⟩

theorem witness_FrameBitsRecordsTheBits :
    Inv Config.hw (block .unknown 32 0 0 0 0xAA) ∧ (block .unknown 32 0 0 0 0xAA).state = .unknown ∧
      32 ≤ (block .unknown 32 0 0 0 0xAA).flip.toNat ∧ WellFormed (.frameBits [false]) = true ∧
      WellFormed (.frameBits (false :: List.replicate 103 true)) = true ∧
      (false :: List.replicate 103 true).length ≤ 104 :=
  ⟨inv_of_check (by decide), by decide, by decide, by decide, by decide, by decide⟩

/-- On the bytes of P2. -/
theorem witness_ThirteenBytesRoundTrip :
    BufferOk Config.hw (block .unknown 0 0 0 0 0xAA) ∧ RegistersReset (block .unknown 0 0 0 0 0xAA) ∧
      WellFormed (.frameBytes [0x5A, 0x83, 0x2C, 0x61, 0x00, 0xFF, 0x10, 0x7E, 0x81, 0x3C, 0xC3, 0x42, 0xA5]) = true ∧
      ([0x5A, 0x83, 0x2C, 0x61, 0x00, 0xFF, 0x10, 0x7E, 0x81, 0x3C, 0xC3, 0x42, 0xA5] : List Byte).length = 13 :=
  ⟨⟨by decide, by decide⟩, ⟨rfl, rfl, rfl, rfl, rfl⟩, by decide, by decide⟩

theorem witness_ShortFrameDelivered :
    Inv Config.hw (block .unknown 32 0 0 0 0xAA) ∧ 32 ≤ (block .unknown 32 0 0 0 0xAA).flip.toNat ∧
      WellFormed (.frameBits (false :: List.replicate 39 true)) = true ∧ 40 ≤ (false :: List.replicate 39 true).length ∧
      (false :: List.replicate 102 true).length ≤ 103 :=
  ⟨inv_of_check (by decide), by decide, by decide, by decide, by decide⟩

/-- The least and the largest buffer, eight recorded zeros, and different stale bytes above them. -/
theorem witness_StaleBytesAndCapNeverMatter :
    let s : State := { attempt .ok 0 8 with data := (0, 0#8) :: (filled 14 0xAA).tail }
    let t : State := { attempt .ok 0 8 with data := (0, 0#8) :: (filled 32 0x55).tail }
    Inv config14 s ∧ Inv config32 t ∧ SameAttempt s t ∧
      (∃ u, perform config14 (.feed 900) s = .next u ∧ u.totalBits = 9#8) ∧
      ∃ u, perform config32 (.feed 900) t = .next u ∧ u.totalBits = 9#8 :=
  ⟨inv_of_check (by decide), inv_of_check (by decide), ⟨rfl, rfl, rfl, rfl, rfl, by decide⟩,
    exists_next _ (by decide), exists_next _ (by decide)⟩

/-- The last clause of the same statement: a frame is complete. -/
theorem witness_StaleBytesAndCapNeverMatter_done :
    let s : State := { attempt .ok 0 40 with data := filled 14 0 }
    Inv config14 s ∧ SameAttempt s s ∧
      ∃ u, perform config14 (.feed 0) s = .next u ∧ (u.state = .done ∧ 4 < u.pos.toNat) :=
  ⟨inv_of_check (by decide), ⟨rfl, rfl, rfl, rfl, rfl, fun _ _ => rfl⟩, exists_next _ (by decide)⟩

end Sys2Proof.Tests
end

section
/-! RECBIT and RECMAN where POS addresses no byte of the buffer (log entry 7). -/

namespace Sys2Proof.Machine

theorem exec_recbit (v : Bool) (s : State) : exec (.recbit v) s = finish (stateOf (recbit Config.hw v s)) := rfl

theorem exec_recman (v : Bool) (s : State) : exec (.recman v) s = finish (stateOf (recman Config.hw v s)) := rfl

@[simp] theorem stateOf_error (f : Fault) : stateOf (.error f) = .error f := rfl

/-- RECMAN stores its bit through RECBIT at the same POS, so it stops where RECBIT does. -/
theorem recman_fault {c : Config} {v : Bool} {s : State} (h : Memory.read s.data s.pos.toNat = none) :
    recman c v s = .error .addressOutsideBuffer := by
  rw [recman_eq, recbit_fault (s := { s with flip := toggleFlip v s.flip }) h]

/-- Settles O45: both forms reach RECBIT's read of the byte at POS, which answers with the fault by name. -/
theorem recordingOutsideBufferFaults : Obligations.RecordingOutsideBufferFaults := by
  intro v s h
  constructor
  · rw [exec_recbit, recbit_fault h, stateOf_error, finish_error]
  · rw [exec_recman, recman_fault h, stateOf_error, finish_error]

end Sys2Proof.Machine
end

section
/-! What is presented at the ports is one boundary operation, and which of those enter and leave DONE (`30_encoding.md`
R83, `10_state.md` R21, R28). -/

namespace Sys2Proof.Machine

theorem exec_toInstr (o : BoundaryOp) (s : State) : exec o.toInstr s = perform Config.hw o s := by cases o <;> rfl

/-- With nothing pending it is IDLE. -/
theorem nextInstr_boundary (s : State) : ∃ o : BoundaryOp, nextInstr s = o.toInstr := by
  unfold nextInstr
  split
  · exact ⟨.idle, rfl⟩
  · exact ⟨_, rfl⟩

/-- A step is a boundary operation on the state in which the event is no longer pending. -/
theorem step_boundary (s : State) :
    ∃ o : BoundaryOp, nextInstr s = o.toInstr ∧ step s = perform Config.hw o s.taken := by
  obtain ⟨o, ho⟩ := nextInstr_boundary s
  exact ⟨o, ho, by rw [step, ho, exec_toInstr]⟩

theorem perform_feed_eq_next {c : Config} {w : Width} {s t : State} (h : perform c (.feed w) s = .next t) :
    feed c w s = .ok t := finish_eq_next h

/-- Of the operations of the boundary only FEED ends in DONE from another state. -/
theorem feed_of_perform_enters_done {c : Config} {o : BoundaryOp} {s t : State} (h : perform c o s = .next t)
    (hs : s.state ≠ .done) (ht : t.state = .done) : ∃ w, o = .feed w := by
  cases o with
  | feed w => exact ⟨w, rfl⟩
  | hwreset => cases h; cases ht
  | reset => cases h; cases ht
  | idle => cases h; exact absurd ht hs
  | isdone => cases h; exact absurd ht hs
  | getframe r => cases h; exact absurd ht hs

/-- Of the operations of the boundary only the two resets leave DONE: FEED is a no-op there (R118). -/
theorem reset_of_perform_leaves_done {c : Config} {o : BoundaryOp} {s t : State} (h : perform c o s = .next t)
    (hs : s.state = .done) (ht : t.state ≠ .done) : o = .reset ∨ o = .hwreset := by
  cases o with
  | reset => exact .inl rfl
  | hwreset => exact .inr rfl
  | feed w =>
    have hf := perform_feed_eq_next h
    rw [feed_done c w hs] at hf
    cases hf
    exact absurd hs ht
  | idle => cases h; exact absurd hs ht
  | isdone => cases h; exact absurd hs ht
  | getframe r => cases h; exact absurd hs ht

/-- Settles O39: a step is one boundary operation, of which only FEED enters DONE and only the resets leave it. -/
theorem doneEnteredByFeedLeftByReset : Obligations.DoneEnteredByFeedLeftByReset := by
  intro s t h
  obtain ⟨o, ho, hstep⟩ := step_boundary s
  rw [hstep] at h
  rw [ho]
  constructor
  · intro hs ht
    obtain ⟨w, rfl⟩ := feed_of_perform_enters_done h hs ht
    exact ⟨w, rfl⟩
  · intro hs ht
    obtain rfl | rfl := reset_of_perform_leaves_done h hs ht
    · exact .inl rfl
    · exact .inr rfl

end Sys2Proof.Machine
end

section
/-! The bits of an attempt after one more bit and after the filling of the partial byte (`41_bit_accumulator.md` R133,
R134): what was recorded stays readable, wherever the shifts have brought it. -/

namespace Sys2Proof.Machine

/-! ## The counters do not wrap (R135) -/

theorem totalBits_succ {n : BitVec 8} (h : n.toNat ≤ 103) : (n + 1#8).toNat = n.toNat + 1 := by
  rw [BitVec.toNat_add]
  show (n.toNat + 1) % 256 = _
  omega

theorem bits_toNat_eq_seven {s : State} (h : s.bits = 7#3) : s.bits.toNat = 7 := by rw [h]; rfl

theorem bits_toNat_ne_zero {s : State} (h : s.bits ≠ 0#3) : s.bits.toNat ≠ 0 := fun e => h (bits_eq_zero e)

theorem pos_succ {p : BitVec 5} (h : p.toNat ≤ 12) : (p + 1#5).toNat = p.toNat + 1 := by
  rw [BitVec.toNat_add]
  show (p.toNat + 1) % 32 = _
  omega

theorem pos_le_of_totalBits_le {s : State} (hc : CountersAgree s) (h : s.totalBits.toNat ≤ 103) :
    s.pos.toNat ≤ 12 := by
  unfold CountersAgree at hc
  omega

theorem pos_lt_cap {c : Config} {s : State} (h : s.pos.toNat ≤ 12) : s.pos.toNat + 1 < c.cap := by
  have := c.cap_ok
  omega

/-! ## The byte at POS -/

/-- The byte RECBIT shifts into, 0 where the buffer has none. -/
def byteAtPos (s : State) : Byte := (Memory.read s.data s.pos.toNat).getD 0#8

theorem read_pos {c : Config} {s : State} (h : BufferOk c s) :
    Memory.read s.data s.pos.toNat = some (byteAtPos s) := by
  obtain ⟨b, hb⟩ := Memory.read_of_wf h.1 h.2
  rw [byteAtPos, hb, Option.getD_some]

/-! ## Bits recorded -/

/-- A bit of a byte that is whole. -/
theorem recordedBit_whole {s : State} {b : Byte} {n : Nat} (hn : n / 8 < s.pos.toNat)
    (hb : Memory.read s.data (n / 8) = some b) : recordedBit s n = some (b.getLsbD (n % 8)) := by
  simp [recordedBit, hb, hn]

/-- A bit of the byte that is being filled. -/
theorem recordedBit_partial {s : State} {b : Byte} {n : Nat} (hn : n / 8 = s.pos.toNat)
    (hb : Memory.read s.data s.pos.toNat = some b) :
    recordedBit s n = some (b.getLsbD (8 - s.bits.toNat + n % 8)) := by
  simp [recordedBit, hn, hb]

/-- A change of the byte at POS leaves the bits of the bytes below it. -/
theorem recordedBit_below {s t : State} {n : Nat} (hn : n / 8 < s.pos.toNat) (hp : s.pos.toNat ≤ t.pos.toNat)
    (hd : SameBytesBut s.pos.toNat s t) : recordedBit t n = recordedBit s n := by
  have ht : n / 8 < t.pos.toNat := by omega
  simp [recordedBit, hn, ht, hd (n / 8) (by omega)]

theorem recorded_pos_toNat (v : Bool) (b : Byte) {s : State} (hp : s.pos.toNat ≤ 12) :
    (recorded v b s).pos.toNat = if s.bits = 7#3 then s.pos.toNat + 1 else s.pos.toNat := by
  rw [recorded_pos]
  split
  · exact pos_succ hp
  · rfl

/-- One more bit: it is read at its number, and every earlier bit at its own (R133). -/
theorem recordedBit_recorded {s : State} {b : Byte} (v : Bool) {n : Nat} (hc : CountersAgree s)
    (hp : s.pos.toNat ≤ 12) (hb : Memory.read s.data s.pos.toNat = some b) (hn : n ≤ s.totalBits.toNat) :
    recordedBit (recorded v b s) n = if n = s.totalBits.toNat then some v else recordedBit s n := by
  unfold CountersAgree at hc
  have hk := s.bits.isLt
  have hpos := recorded_pos_toNat v b hp
  have hread : Memory.read (recorded v b s).data s.pos.toNat = some (shiftIn v b) := Memory.read_write_same _ hb
  by_cases hlow : n / 8 < s.pos.toNat
  · rw [if_neg (by omega)]
    refine recordedBit_below hlow ?_ fun k hk => Memory.read_write_other _ _ hk
    rw [hpos]
    split <;> omega
  · have hat : n / 8 = s.pos.toNat := by omega
    rw [recordedBit_partial hat hb]
    by_cases h7 : s.bits = 7#3
    · have h7' := bits_toNat_eq_seven h7
      rw [if_pos h7] at hpos
      rw [recordedBit_whole (b := shiftIn v b) (by omega) (by rw [hat]; exact hread), shiftIn_getLsbD, h7']
      by_cases hlast : n = s.totalBits.toNat
      · rw [if_pos hlast, if_pos (by omega)]
      · rw [if_neg hlast, if_neg (by omega), show 8 - 7 + n % 8 = n % 8 + 1 by omega]
    · have hlt := bits_lt_seven h7
      rw [if_neg h7] at hpos
      rw [recordedBit_partial (b := shiftIn v b) (by omega) (by rw [hpos]; exact hread), shiftIn_getLsbD,
        recorded_bits, bits_succ h7]
      by_cases hlast : n = s.totalBits.toNat
      · rw [if_pos hlast, if_pos (by omega)]
      · rw [if_neg hlast, if_neg (by omega),
          show 8 - (s.bits.toNat + 1) + n % 8 + 1 = 8 - s.bits.toNat + n % 8 by omega]

/-- The filling: every recorded bit is read at its number, and zeros above them (R134). -/
theorem recordedBit_padded {s : State} {b : Byte} {n : Nat} (hc : CountersAgree s) (hp : s.pos.toNat ≤ 12)
    (hb : Memory.read s.data s.pos.toNat = some b) (hn : n < 8 * (s.pos.toNat + 1)) :
    recordedBit (padded b s) n = if n < s.totalBits.toNat then recordedBit s n else some false := by
  unfold CountersAgree at hc
  have hk := s.bits.isLt
  have hpos : (padded b s).pos.toNat = s.pos.toNat + 1 := pos_succ hp
  have hread : Memory.read (padded b s).data s.pos.toNat = some (b >>> (8 - s.bits.toNat)) :=
    Memory.read_write_same _ hb
  by_cases hlow : n / 8 < s.pos.toNat
  · rw [if_pos (by omega)]
    exact recordedBit_below hlow (by omega) fun k hk => Memory.read_write_other _ _ hk
  · have hat : n / 8 = s.pos.toNat := by omega
    rw [recordedBit_partial hat hb, recordedBit_whole (by omega) (by rw [hat]; exact hread),
      BitVec.getLsbD_ushiftRight]
    split
    · rfl
    · rw [BitVec.getLsbD_of_ge _ _ (by omega)]

end Sys2Proof.Machine
end

section
/-! What one pulse does to the block: which of six effects STATE, the class and the counters select (`30_encoding.md`
R89). Under the invariant neither a fault nor an overflow is left, and CAP plays no part. -/

namespace Sys2Proof.Machine

/-! ## The invariant by STATE -/

theorem Inv.unknown {c : Config} {s : State} (h : Inv c s) (hs : s.state = .unknown) :
    s.totalBits = 0#8 ∧ s.bits = 0#3 ∧ s.pos = 0#5 := by
  have ha := h.agrees
  rwa [StateAgrees, hs] at ha

theorem Inv.midAttempt {c : Config} {s : State} (h : Inv c s) (hs : s.state = .ok ∨ s.state = .t0) :
    MidAttempt s := by
  have ha := h.agrees
  obtain hs | hs := hs <;> rwa [StateAgrees, hs] at ha

theorem Inv.frameComplete {c : Config} {s : State} (h : Inv c s) (hs : s.state = .done) : FrameComplete s := by
  have ha := h.agrees
  rwa [StateAgrees, hs] at ha

/-- STATE is never reserved (R46). -/
theorem Inv.state_cases {c : Config} {s : State} (h : Inv c s) :
    s.state = .unknown ∨ s.state = .ok ∨ s.state = .t0 ∨ s.state = .done := by
  have ha := h.agrees
  unfold StateAgrees at ha
  cases hs : s.state <;> simp [hs] at ha ⊢

/-- Outside DONE the 104th bit has not been recorded (R43, R44). -/
theorem Inv.totalBits_le_of_live {c : Config} {s : State} (h : Inv c s) (hs : s.state ≠ .done) :
    s.totalBits.toNat ≤ 103 := by
  obtain hs' | hs' | hs' | hs' := h.state_cases
  · rw [(h.unknown hs').1]; decide
  · obtain ⟨-, hn, -⟩ := h.midAttempt (.inl hs')
    exact hn
  · obtain ⟨-, hn, -⟩ := h.midAttempt (.inr hs')
    exact hn
  · exact absurd hs' hs

theorem Inv.pos_le_of_live {c : Config} {s : State} (h : Inv c s) (hs : s.state ≠ .done) : s.pos.toNat ≤ 12 :=
  pos_le_of_totalBits_le h.counters (h.totalBits_le_of_live hs)

theorem Inv.totalBits_le {c : Config} {s : State} (h : Inv c s) : s.totalBits.toNat ≤ 104 := by
  by_cases hs : s.state = .done
  · obtain ⟨-, -, hn, -⟩ := h.frameComplete hs
    exact hn
  · have := h.totalBits_le_of_live hs
    omega

/-- The invariant does not speak of the model's own fields. -/
theorem Inv.of_sameBlock {c : Config} {s t : State} (h : Inv c s) (e : SameBlock s t) : Inv c t := by
  obtain ⟨state, flip, totalBits, bits, pos, data, _, _, _⟩ := s
  obtain ⟨state', flip', totalBits', bits', pos', data', _, _, _⟩ := t
  obtain ⟨rfl, rfl, rfl, rfl, rfl, rfl⟩ := e
  exact ⟨h.buffer, h.flip, h.counters, h.agrees⟩

/-- The reset registers meet the invariant over any whole buffer. -/
theorem inv_of_registersReset {c : Config} {s : State} (hm : Memory.wf c s.data = true) (h : RegistersReset s) :
    Inv c s := by
  obtain ⟨hs, hf, hn, hk, hp⟩ := h
  have hcap := c.cap_ok
  refine ⟨⟨hm, ?_⟩, ?_, ?_, ?_⟩
  · rw [hp]
    show 0 < c.cap
    omega
  · simp [hf]
  · simp [CountersAgree, hn, hk, hp]
  · simp [StateAgrees, hs, hn, hk, hp]

theorem registersReset_doReset (s : State) : RegistersReset (doReset s) := ⟨rfl, rfl, rfl, rfl, rfl⟩

/-! ## The two effects that record -/

/-- The new FLIP's bit is recorded; STATE is OK, or DONE at the 104th bit (R154, R157, R158, R161). -/
def storeFlip (f : BitVec 6) (s : State) : State :=
  { recorded (flipFlag f) (byteAtPos s) s with
    flip := f, state := if isFullFrame (s.totalBits + 1#8) then .done else .ok }

/-- The partial byte, if there is one, is filled, and STATE is DONE (R119). -/
def closeFrame (s : State) : State :=
  { (if s.bits = 0#3 then s else padded (byteAtPos s) s) with state := .done }

theorem not_overflows {c : Config} {s : State} (hp : s.pos.toNat ≤ 12) : ¬ overflows c s := by
  have := pos_lt_cap (c := c) hp
  intro h
  have := h.2
  omega

/-- With room for the byte at POS, completion never overflows. -/
theorem complete_room {c : Config} {s : State} (h : BufferOk c s) (hp : s.pos.toNat ≤ 12) :
    complete c s = .ok (closeFrame s) := by
  by_cases h0 : s.bits = 0#3
  · rw [complete_aligned c h0, closeFrame, if_pos h0]
  · have := pos_lt_cap (c := c) hp
    rw [complete, pad_room h0 (read_pos h) (by omega), closeFrame, if_neg h0]

theorem pad_ok_of_room {c : Config} {s t : State} {r : RecResult} (h : BufferOk c s) (hp : s.pos.toNat ≤ 12)
    (hpad : pad c s = .ok (r, t)) : r = .ok := by
  by_cases h0 : s.bits = 0#3
  · rw [pad_aligned c h0] at hpad
    cases hpad
    rfl
  · have := pos_lt_cap (c := c) hp
    rw [pad_room h0 (read_pos h) (by omega)] at hpad
    cases hpad
    rfl

/-- The full-frame test after a bit that has been recorded in OK (R161): the 104th bit fills its byte. -/
theorem respond_recorded {c : Config} {s : State} (f : BitVec 6) (hc : CountersAgree s)
    (hn : s.totalBits.toNat ≤ 103) :
    respond c (thenFullFrameTest (.ok
      { recorded (flipFlag f) (byteAtPos s) s with flip := f, state := .ok })) = .ok (storeFlip f s) := by
  rw [respond_branch, storeFlip]
  show (if isFullFrame (s.totalBits + 1#8) then _ else _) = _
  split
  case isTrue hfull =>
    rw [isFullFrame_iff, totalBits_succ hn] at hfull
    unfold CountersAgree at hc
    have hk := s.bits.isLt
    have h7 : s.bits = 7#3 := BitVec.eq_of_toNat_eq (show s.bits.toNat = 7 by omega)
    exact complete_aligned c (by simp [h7])
  case isFalse => rfl

/-! ## The effects -/

/-- What a pulse can do to the block where no recorded bit overflows the buffer. -/
inductive PulseEffect where
  | nothing
  | reset
  | count
  | wait
  | store (flip : BitVec 6)
  | close

def PulseEffect.apply (e : PulseEffect) (s : State) : State :=
  match e with
  | .nothing    => s
  | .reset      => doReset s
  | .count      => countPreamble s
  | .wait       => firstHalf s
  | .store flip => storeFlip flip s
  | .close      => closeFrame s

/-- The effect of a pulse, from the registers only (R89). -/
def effectOf (p : PulseClass) (s : State) : PulseEffect :=
  if isDone s then .nothing
  else
    match p, s.state with
    | .gap,   _        => if inShortBand s.totalBits then .close else .reset
    | .long,  .unknown => .count
    | .long,  .ok      => .store (toggleFlip true s.flip)
    | .short, .unknown => if preambleSeen s.flip then .store 0#6 else .reset
    | .short, .ok      => .wait
    | .short, .t0      => .store (toggleFlip false s.flip)
    | _,      _        => .reset

/-- When a pulse has the effect, as far as the invariant asks: the bit that is stored first is 0, and a frame that is
closed is one of the short band. -/
def PulseEffect.Guard (e : PulseEffect) (s : State) : Prop :=
  match e with
  | .nothing    => True
  | .reset      => True
  | .count      => s.state = .unknown
  | .wait       => s.state = .ok
  | .store flip => s.totalBits.toNat ≤ 103 ∧ flip.toNat ≤ 1 ∧
      (s.totalBits.toNat = 0 ∧ flipFlag flip = false ∨ 1 ≤ s.totalBits.toNat ∧ FirstBitZero s)
  | .close      => 40 ≤ s.totalBits.toNat ∧ s.totalBits.toNat ≤ 103 ∧ s.flip.toNat ≤ 1 ∧ FirstBitZero s

theorem effectOf_done (p : PulseClass) {s : State} (hs : s.state = .done) : effectOf p s = .nothing := by
  simp [effectOf, isDone, hs]

theorem effectOf_gap {s : State} (hs : s.state ≠ .done) :
    effectOf .gap s = if inShortBand s.totalBits then .close else .reset := by
  simp [effectOf, isDone, hs]

theorem effectOf_unknown_long {s : State} (hs : s.state = .unknown) : effectOf .long s = .count := by
  simp [effectOf, isDone, hs]

theorem effectOf_unknown_short {s : State} (hs : s.state = .unknown) :
    effectOf .short s = if preambleSeen s.flip then .store 0#6 else .reset := by
  simp [effectOf, isDone, hs]

theorem effectOf_ok_long {s : State} (hs : s.state = .ok) : effectOf .long s = .store (toggleFlip true s.flip) := by
  simp [effectOf, isDone, hs]

theorem effectOf_ok_short {s : State} (hs : s.state = .ok) : effectOf .short s = .wait := by
  simp [effectOf, isDone, hs]

theorem effectOf_t0_long {s : State} (hs : s.state = .t0) : effectOf .long s = .reset := by
  simp [effectOf, isDone, hs]

theorem effectOf_t0_short {s : State} (hs : s.state = .t0) :
    effectOf .short s = .store (toggleFlip false s.flip) := by
  simp [effectOf, isDone, hs]

/-- A gap outside DONE in the short band finds an attempt in progress (R43, R152). -/
theorem Inv.midAttempt_of_band {c : Config} {s : State} (h : Inv c s) (hs : s.state ≠ .done)
    (hb : 40 ≤ s.totalBits.toNat) : MidAttempt s := by
  obtain hs' | hs' | hs' | hs' := h.state_cases
  · rw [(h.unknown hs').1] at hb
    exact absurd hb (by decide)
  · exact h.midAttempt (.inl hs')
  · exact h.midAttempt (.inr hs')
  · exact absurd hs' hs

theorem guard_store_of_midAttempt {s : State} (v : Bool) (h : MidAttempt s) :
    (PulseEffect.store (toggleFlip v s.flip)).Guard s := by
  obtain ⟨hpos, hn, hf, hfirst, -⟩ := h
  exact ⟨hn, toggleFlip_le v hf, .inr ⟨hpos, hfirst⟩⟩

theorem guard_effectOf_gap {c : Config} {s : State} (h : Inv c s) (hs : s.state ≠ .done) :
    (effectOf .gap s).Guard s := by
  rw [effectOf_gap hs]
  split
  case isTrue hb =>
    obtain ⟨hlo, hhi⟩ := (inShortBand_iff _).mp hb
    obtain ⟨-, -, hf, hfirst, -⟩ := h.midAttempt_of_band hs hlo
    exact ⟨hlo, hhi, hf, hfirst⟩
  case isFalse => trivial

theorem guard_effectOf_unknown_short {c : Config} {s : State} (h : Inv c s) (hs : s.state = .unknown) :
    (effectOf .short s).Guard s := by
  obtain ⟨hn, -, -⟩ := h.unknown hs
  rw [effectOf_unknown_short hs]
  split
  · exact ⟨by simp [hn], by decide, .inl ⟨by simp [hn], by decide⟩⟩
  · trivial

/-- From a state with the invariant a pulse only has an effect whose guard holds. -/
theorem guard_effectOf {c : Config} {s : State} (h : Inv c s) (p : PulseClass) : (effectOf p s).Guard s := by
  by_cases hd : s.state = .done
  · rw [effectOf_done p hd]
    trivial
  cases p with
  | gap => exact guard_effectOf_gap h hd
  | long =>
    obtain hs | hs | hs | hs := h.state_cases
    · rw [effectOf_unknown_long hs]
      exact hs
    · rw [effectOf_ok_long hs]
      exact guard_store_of_midAttempt true (h.midAttempt (.inl hs))
    · rw [effectOf_t0_long hs]
      trivial
    · exact absurd hs hd
  | short =>
    obtain hs | hs | hs | hs := h.state_cases
    · exact guard_effectOf_unknown_short h hs
    · rw [effectOf_ok_short hs]
      exact hs
    · rw [effectOf_t0_short hs]
      exact guard_store_of_midAttempt false (h.midAttempt (.inr hs))
    · exact absurd hs hd

/-! ## FEED has the effect -/

theorem feed_eq_of_gap {c : Config} {w : Width} {s : State} (h : Inv c s) (hd : s.state ≠ .done)
    (hw : classify w = .gap) : feed c w s = .ok ((effectOf .gap s).apply s) := by
  rw [effectOf_gap hd]
  by_cases hb : inShortBand s.totalBits = true
  · rw [feed_gap_complete c hd hw hb, if_pos hb]
    exact complete_room h.buffer (h.pos_le_of_live hd)
  · rw [feed_gap_invalid c hd hw (by simpa using hb), if_neg hb]
    rfl

theorem feed_eq_of_unknown_long {c : Config} {w : Width} {s : State} (h : Inv c s) (hs : s.state = .unknown)
    (hw : classify w = .long) : feed c w s = .ok (countPreamble s) := by
  obtain ⟨hn, -, -⟩ := h.unknown hs
  rw [feed_unknown_long c hs hw, respond_fullFrameTest, countPreamble_totalBits, hn]
  rfl

theorem feed_eq_of_ok_short {c : Config} {w : Width} {s : State} (h : Inv c s) (hs : s.state = .ok)
    (hw : classify w = .short) : feed c w s = .ok (firstHalf s) := by
  have hn := h.totalBits_le_of_live (by simp [hs])
  have hfull : isFullFrame s.totalBits = false := (isFullFrame_eq_false _).mpr (by omega)
  rw [feed_ok_short c hs hw, respond_fullFrameTest, firstHalf_totalBits, hfull]
  rfl

/-- Recording a Manchester bit outside DONE and going to OK, with the full-frame test. -/
theorem respond_recordThen {c : Config} {s : State} (h : Inv c s) (hd : s.state ≠ .done) (v : Bool) (f : BitVec 6) :
    respond c (thenFullFrameTest (recordThen c v .ok { s with flip := f })) =
      .ok (storeFlip (toggleFlip v f) s) := by
  have hrec : recman c v { s with flip := f } = .ok (.ok, recorded (flipFlag (toggleFlip v f)) (byteAtPos s)
      { s with flip := toggleFlip v f }) :=
    recman_room (s := { s with flip := f }) (read_pos h.buffer) (not_overflows (h.pos_le_of_live hd))
  rw [recordThen, hrec]
  exact respond_recorded _ h.counters (h.totalBits_le_of_live hd)

theorem feed_eq_of_unknown_short {c : Config} {w : Width} {s : State} (h : Inv c s) (hs : s.state = .unknown)
    (hw : classify w = .short) : feed c w s = .ok ((effectOf .short s).apply s) := by
  rw [effectOf_unknown_short hs]
  by_cases hf : preambleSeen s.flip = true
  · rw [feed_sync c hs hw hf, if_pos hf]
    exact respond_recordThen h (by simp [hs]) true 1#6
  · rw [feed_early c hs hw (by simpa using hf), if_neg hf]
    rfl

/-- In OK, recording a toggle is recording it and then writing OK again. -/
theorem recordToggle_eq_recordThen {c : Config} {s : State} (h : Inv c s) (hs : s.state = .ok) :
    recordToggle c s = recordThen c true .ok s := by
  have hrec := recman_room (c := c) (v := true) (read_pos h.buffer)
    (not_overflows (h.pos_le_of_live (by simp [hs])))
  rw [recordToggle, recordThen, hrec]
  simp [recorded, hs]

/-- Under the invariant FEED completes, with the effect that the class and the registers select. -/
theorem feed_eq {c : Config} (w : Width) {s : State} (h : Inv c s) :
    feed c w s = .ok ((effectOf (classify w) s).apply s) := by
  by_cases hd : s.state = .done
  · rw [feed_done c w hd, effectOf_done _ hd]
    rfl
  cases hw : classify w with
  | gap => exact feed_eq_of_gap h hd hw
  | long =>
    obtain hs | hs | hs | hs := h.state_cases
    · rw [effectOf_unknown_long hs]
      exact feed_eq_of_unknown_long h hs hw
    · rw [effectOf_ok_long hs, feed_ok_long c hs hw, recordToggle_eq_recordThen h hs]
      exact respond_recordThen h hd true s.flip
    · rw [effectOf_t0_long hs]
      exact feed_t0_long c hs hw
    · exact absurd hs hd
  | short =>
    obtain hs | hs | hs | hs := h.state_cases
    · exact feed_eq_of_unknown_short h hs hw
    · rw [effectOf_ok_short hs]
      exact feed_eq_of_ok_short h hs hw
    · rw [effectOf_t0_short hs, feed_t0_short c hs hw]
      exact respond_recordThen h hd false s.flip
    · exact absurd hs hd

end Sys2Proof.Machine
end

section
/-! Every effect of a pulse keeps the invariant (`10_state.md` R40 to R47) and does not decrease TOTAL_BITS but by a
reset (R23). -/

namespace Sys2Proof.Machine

/-! ## A recorded bit -/

theorem recorded_bits_toNat (v : Bool) (b : Byte) (s : State) :
    (recorded v b s).bits.toNat = if s.bits = 7#3 then 0 else s.bits.toNat + 1 := by
  rw [recorded_bits]
  split
  case isTrue h7 => rw [h7]; rfl
  case isFalse h7 => exact bits_succ h7

theorem bufferOk_recorded {c : Config} {s : State} (v : Bool) (b : Byte) (h : BufferOk c s) (hp : s.pos.toNat ≤ 12) :
    BufferOk c (recorded v b s) := by
  have hcap := pos_lt_cap (c := c) hp
  obtain ⟨hwf, hlt⟩ := h
  refine ⟨by simpa using hwf, ?_⟩
  rw [recorded_pos_toNat v b hp]
  split <;> omega

theorem countersAgree_recorded {s : State} (v : Bool) (b : Byte) (h : CountersAgree s) (hn : s.totalBits.toNat ≤ 103) :
    CountersAgree (recorded v b s) := by
  have hp := pos_le_of_totalBits_le h hn
  unfold CountersAgree at h ⊢
  rw [recorded_totalBits, totalBits_succ hn, recorded_pos_toNat v b hp, recorded_bits_toNat]
  split
  case isTrue h7 =>
    have h7' := bits_toNat_eq_seven h7
    omega
  case isFalse => omega

/-! ## Storing the flip flag -/

@[simp] theorem storeFlip_flip (f : BitVec 6) (s : State) : (storeFlip f s).flip = f := rfl
@[simp] theorem storeFlip_totalBits (f : BitVec 6) (s : State) :
    (storeFlip f s).totalBits = s.totalBits + 1#8 := rfl
theorem storeFlip_state (f : BitVec 6) (s : State) :
    (storeFlip f s).state = if isFullFrame (s.totalBits + 1#8) then .done else .ok := rfl

theorem recordedBit_storeFlip {c : Config} {s : State} (h : Inv c s) (hn : s.totalBits.toNat ≤ 103) (f : BitVec 6)
    {n : Nat} (hle : n ≤ s.totalBits.toNat) :
    recordedBit (storeFlip f s) n = if n = s.totalBits.toNat then some (flipFlag f) else recordedBit s n :=
  recordedBit_recorded (flipFlag f) h.counters (pos_le_of_totalBits_le h.counters hn) (read_pos h.buffer) hle

theorem firstBitZero_storeFlip {c : Config} {s : State} {f : BitVec 6} (h : Inv c s)
    (hg : (PulseEffect.store f).Guard s) : FirstBitZero (storeFlip f s) := by
  obtain ⟨hn, -, hfirst⟩ := hg
  rw [FirstBitZero, recordedBit_storeFlip h hn f (Nat.zero_le _)]
  obtain ⟨h0, hflag⟩ | ⟨hpos, hfirst⟩ := hfirst
  · rw [if_pos h0.symm, hflag]
  · rw [if_neg (by omega)]
    exact hfirst

theorem lastBitIsFlip_storeFlip {c : Config} {s : State} (h : Inv c s) (hn : s.totalBits.toNat ≤ 103)
    (f : BitVec 6) : LastBitIsFlip (storeFlip f s) := by
  rw [LastBitIsFlip, storeFlip_totalBits, totalBits_succ hn, Nat.add_sub_cancel,
    recordedBit_storeFlip h hn f le_rfl, if_pos rfl, storeFlip_flip]

/-- The 104th bit is the last of the 13th byte. -/
theorem storeFlip_bits_of_full {s : State} (f : BitVec 6) (hc : CountersAgree (storeFlip f s))
    (hfull : (storeFlip f s).totalBits.toNat = 104) : (storeFlip f s).bits = 0#3 := by
  have hk := (storeFlip f s).bits.isLt
  unfold CountersAgree at hc
  exact bits_eq_zero (by omega)

theorem stateAgrees_storeFlip {c : Config} {s : State} {f : BitVec 6} (h : Inv c s)
    (hg : (PulseEffect.store f).Guard s) (hc : CountersAgree (storeFlip f s)) : StateAgrees (storeFlip f s) := by
  have hfirst := firstBitZero_storeFlip h hg
  obtain ⟨hn, hf, -⟩ := hg
  have htotal : (storeFlip f s).totalBits.toNat = s.totalBits.toNat + 1 := totalBits_succ hn
  unfold StateAgrees
  rw [storeFlip_state, ← storeFlip_totalBits f]
  by_cases hfull : isFullFrame (storeFlip f s).totalBits = true
  · rw [if_pos hfull]
    rw [isFullFrame_iff] at hfull
    exact ⟨storeFlip_bits_of_full f hc hfull, by omega, by omega, hf, hfirst⟩
  · rw [if_neg hfull]
    rw [isFullFrame_iff] at hfull
    exact ⟨by omega, by omega, hf, hfirst, lastBitIsFlip_storeFlip h hn f⟩

theorem inv_storeFlip {c : Config} {s : State} {f : BitVec 6} (h : Inv c s) (hg : (PulseEffect.store f).Guard s) :
    Inv c (storeFlip f s) := by
  have ⟨hn, hf, _⟩ := hg
  have hc : CountersAgree (storeFlip f s) :=
    countersAgree_recorded (flipFlag f) (byteAtPos s) h.counters hn
  have hbuf : BufferOk c (storeFlip f s) :=
    bufferOk_recorded (flipFlag f) (byteAtPos s) h.buffer (pos_le_of_totalBits_le h.counters hn)
  exact ⟨hbuf, hf.trans (by decide), hc, stateAgrees_storeFlip h hg hc⟩

/-! ## Closing a frame -/

@[simp] theorem closeFrame_state (s : State) : (closeFrame s).state = .done := rfl

theorem closeFrame_aligned {s : State} (h0 : s.bits = 0#3) : closeFrame s = { s with state := .done } := by
  rw [closeFrame, if_pos h0]

theorem closeFrame_partial {s : State} (h0 : s.bits ≠ 0#3) :
    closeFrame s = { padded (byteAtPos s) s with state := .done } := by
  rw [closeFrame, if_neg h0]

@[simp] theorem closeFrame_flip (s : State) : (closeFrame s).flip = s.flip := by
  unfold closeFrame
  split <;> rfl

@[simp] theorem closeFrame_bits (s : State) : (closeFrame s).bits = 0#3 := by
  unfold closeFrame
  split
  case isTrue h0 => exact h0
  case isFalse => rfl

/-- The count of bytes is rounded up (R134). -/
theorem closeFrame_pos_toNat {s : State} (hc : CountersAgree s) (hn : s.totalBits.toNat ≤ 103) :
    (closeFrame s).pos.toNat = (s.totalBits.toNat + 7) / 8 := by
  have hp := pos_le_of_totalBits_le hc hn
  have hk := s.bits.isLt
  unfold CountersAgree at hc
  by_cases h0 : s.bits = 0#3
  · have h0' : s.bits.toNat = 0 := by simp [h0]
    rw [closeFrame_aligned h0]
    show s.pos.toNat = _
    omega
  · have h0' := bits_toNat_ne_zero h0
    rw [closeFrame_partial h0]
    show (s.pos + 1#5).toNat = _
    rw [pos_succ hp]
    omega

/-- The filled bits are counted (R134). -/
theorem closeFrame_totalBits_toNat {s : State} (hc : CountersAgree s) (hn : s.totalBits.toNat ≤ 103) :
    (closeFrame s).totalBits.toNat = 8 * (closeFrame s).pos.toNat := by
  rw [closeFrame_pos_toNat hc hn]
  have hk := s.bits.isLt
  unfold CountersAgree at hc
  by_cases h0 : s.bits = 0#3
  · have h0' : s.bits.toNat = 0 := by simp [h0]
    rw [closeFrame_aligned h0]
    show s.totalBits.toNat = _
    omega
  · have h0' := bits_toNat_ne_zero h0
    rw [closeFrame_partial h0]
    show (s.totalBits + BitVec.ofNat 8 (8 - s.bits.toNat)).toNat = _
    rw [BitVec.toNat_add, BitVec.toNat_ofNat]
    omega

/-- A closed frame holds the bits of the attempt, and zeros above them. -/
theorem recordedBit_closeFrame {c : Config} {s : State} (h : Inv c s) (hn : s.totalBits.toNat ≤ 103) {n : Nat}
    (hlt : n < (closeFrame s).totalBits.toNat) :
    recordedBit (closeFrame s) n = if n < s.totalBits.toNat then recordedBit s n else some false := by
  have hp := pos_le_of_totalBits_le h.counters hn
  rw [closeFrame_totalBits_toNat h.counters hn] at hlt
  by_cases h0 : s.bits = 0#3
  · have hc := h.counters
    unfold CountersAgree at hc
    have h0' : s.bits.toNat = 0 := by simp [h0]
    rw [closeFrame_aligned h0] at hlt ⊢
    rw [if_pos (by simp at hlt; omega)]
    rfl
  · rw [closeFrame_partial h0] at hlt ⊢
    refine recordedBit_padded h.counters hp (read_pos h.buffer) ?_
    rwa [← pos_succ hp]

theorem bufferOk_closeFrame {c : Config} {s : State} (h : Inv c s) (hn : s.totalBits.toNat ≤ 103) :
    BufferOk c (closeFrame s) := by
  obtain ⟨hwf, -⟩ := h.buffer
  have hcap := c.cap_ok
  refine ⟨?_, ?_⟩
  · unfold closeFrame
    split
    · exact hwf
    · exact (Memory.wf_write c _ _ _).trans hwf
  · rw [closeFrame_pos_toNat h.counters hn]
    omega

theorem inv_closeFrame {c : Config} {s : State} (h : Inv c s) (hg : PulseEffect.close.Guard s) :
    Inv c (closeFrame s) := by
  obtain ⟨hlo, hhi, hf, hfirst⟩ := hg
  have hpos := closeFrame_pos_toNat h.counters hhi
  have htotal := closeFrame_totalBits_toNat h.counters hhi
  have hfirst' : FirstBitZero (closeFrame s) := by
    rw [FirstBitZero, recordedBit_closeFrame h hhi (by omega), if_pos (by omega)]
    exact hfirst
  refine ⟨bufferOk_closeFrame h hhi, by simpa using h.flip, ?_, ?_⟩
  · simpa [CountersAgree] using htotal
  · exact ⟨closeFrame_bits s, by omega, by omega, by simpa using hf, hfirst'⟩

/-! ## The effects that record nothing -/

theorem countLong_toNat (f : BitVec 6) : (countLong f).toNat = min (f.toNat + 1) 32 := by
  rw [countLong, BitVec.toNat_ofNat]
  show min (f.toNat + 1) 32 % 64 = _
  omega

theorem inv_countPreamble {c : Config} {s : State} (h : Inv c s) (hs : s.state = .unknown) :
    Inv c (countPreamble s) := by
  refine ⟨h.buffer, ?_, h.counters, ?_⟩
  · rw [countPreamble_flip, countLong_toNat]
    omega
  · rw [StateAgrees, countPreamble_state, hs]
    exact h.unknown hs

theorem inv_firstHalf {c : Config} {s : State} (h : Inv c s) (hs : s.state = .ok) : Inv c (firstHalf s) :=
  ⟨h.buffer, h.flip, h.counters, h.midAttempt (.inl hs)⟩

/-! ## Every effect -/

theorem PulseEffect.inv_apply {c : Config} {s : State} (e : PulseEffect) (h : Inv c s) (hg : e.Guard s) :
    Inv c (e.apply s) := by
  cases e with
  | nothing => exact h
  | reset =>
    obtain ⟨hwf, -⟩ := h.buffer
    exact inv_of_registersReset hwf (registersReset_doReset s)
  | count => exact inv_countPreamble h hg
  | wait => exact inv_firstHalf h hg
  | store f => exact inv_storeFlip h hg
  | close => exact inv_closeFrame h hg

theorem PulseEffect.totalBits_apply {c : Config} {s : State} (e : PulseEffect) (h : Inv c s) (hg : e.Guard s) :
    s.totalBits.toNat ≤ (e.apply s).totalBits.toNat ∨ RegistersReset (e.apply s) := by
  cases e with
  | nothing => exact .inl le_rfl
  | reset => exact .inr (registersReset_doReset s)
  | count => exact .inl le_rfl
  | wait => exact .inl le_rfl
  | store f =>
    obtain ⟨hn, -⟩ := hg
    left
    show _ ≤ (s.totalBits + 1#8).toNat
    rw [totalBits_succ hn]
    omega
  | close =>
    obtain ⟨-, hhi, -⟩ := hg
    left
    show _ ≤ (closeFrame s).totalBits.toNat
    rw [closeFrame_totalBits_toNat h.counters hhi, closeFrame_pos_toNat h.counters hhi]
    omega

/-- Every operation of the boundary completes and keeps the invariant, at every admitted CAP (R41, R66). -/
theorem perform_keeps_inv {c : Config} (o : BoundaryOp) {s : State} (h : Inv c s) :
    ∃ t, perform c o s = .next t ∧ Inv c t := by
  cases o with
  | hwreset => exact ⟨_, rfl, inv_of_registersReset (Memory.wf_powerOnData c _) ⟨rfl, rfl, rfl, rfl, rfl⟩⟩
  | reset => exact ⟨_, rfl, PulseEffect.reset.inv_apply h trivial⟩
  | feed w =>
    refine ⟨(effectOf (classify w) s).apply s, ?_, PulseEffect.inv_apply _ h (guard_effectOf h _)⟩
    rw [perform, feed_eq w h, finish_ok]
  | idle => exact ⟨s, rfl, h⟩
  | isdone => exact ⟨_, rfl, h.of_sameBlock ⟨rfl, rfl, rfl, rfl, rfl, rfl⟩⟩
  | getframe r => exact ⟨_, rfl, h.of_sameBlock ⟨rfl, rfl, rfl, rfl, rfl, rfl⟩⟩

/-- Settles O10. -/
theorem everyAdmittedCapRuns : Obligations.EveryAdmittedCapRuns := fun _ o _ h => perform_keeps_inv o h

/-- Settles O9: a step is one boundary operation, on a state that differs only in what is pending. -/
theorem stepKeepsInvariant : Obligations.StepKeepsInvariant := by
  intro s t h hstep
  obtain ⟨o, -, heq⟩ := step_boundary s
  have htaken : Inv Config.hw s.taken := h.of_sameBlock ⟨rfl, rfl, rfl, rfl, rfl, rfl⟩
  obtain ⟨u, hu, hinv⟩ := perform_keeps_inv o htaken
  rw [heq, hu] at hstep
  cases hstep
  exact hinv

/-- Settles O42: no effect of a pulse decreases TOTAL_BITS but the reset. -/
theorem totalBitsMonotone : Obligations.TotalBitsMonotone := by
  intro w s t h hexec
  have hfeed : feed Config.hw w s = .ok t := perform_feed_eq_next hexec
  rw [feed_eq w h] at hfeed
  cases hfeed
  exact PulseEffect.totalBits_apply _ h (guard_effectOf h _)

/-- Settles O11: outside DONE, and in the short band, POS is at most 12, so the byte at POS is not the last of the
buffer. -/
theorem overflowIsDeadLogic : Obligations.OverflowIsDeadLogic := by
  intro c s h
  have hn := h.totalBits_le
  have hcnt := h.counters
  unfold CountersAgree at hcnt
  obtain ⟨-, hpos⟩ := h.buffer
  refine ⟨hn, by omega, hpos, fun v r t hs hrec => ?_, fun r t hband hpad => ?_⟩
  · rw [recman_room (read_pos h.buffer) (not_overflows (h.pos_le_of_live hs))] at hrec
    cases hrec
    rfl
  · obtain ⟨-, hhi⟩ := (inShortBand_iff _).mp hband
    exact pad_ok_of_room h.buffer (pos_le_of_totalBits_le h.counters hhi) hpad

end Sys2Proof.Machine
end

section
/-! The operations of a trace, one after the other (`30_encoding.md` R94). -/

namespace Sys2Proof.Machine

theorem runOps_singleton (c : Config) (o : BoundaryOp) (s : State) : runOps c [o] s = perform c o s := by
  rw [runOps]
  cases perform c o s <;> rfl

/-- What can stand in a trace runs as the operations it stands for. -/
theorem exec_eq_runOps {i : Instr} (h : i.asTrace.isSome = true) (s : State) :
    exec i s = runOps Config.hw i.expand s := by
  cases i with
  | reset => exact (runOps_singleton Config.hw .reset s).symm
  | idle => exact (runOps_singleton Config.hw .idle s).symm
  | hwreset => exact (runOps_singleton Config.hw .hwreset s).symm
  | isdone => exact (runOps_singleton Config.hw .isdone s).symm
  | getframe r => exact (runOps_singleton Config.hw (.getframe r) s).symm
  | feed w | feedGapLow w | feedShort w | feedLong w | feedGapHigh w =>
    exact (runOps_singleton Config.hw (.feed w) s).symm
  | long | short | gap | preamble _ | sync | toggle | same | frameBits _ | frameBytes _ | rep _ _ => rfl
  | stepDoneAny _ | stepGapComplete | stepGapInvalid | stepUnknownLong | stepUnknownShortSync
  | stepUnknownShortEarly | stepOkShort | stepOkLong | stepT0Short | stepT0Long | stepReserved _
  | stepFullFrame _ | recbit _ | recman _ | pad | doReset => cases h

theorem runOps_keeps_inv {c : Config} (os : List BoundaryOp) {s : State} (h : Inv c s) :
    ∃ t, runOps c os s = .next t ∧ Inv c t := by
  induction os generalizing s with
  | nil => exact ⟨s, rfl, h⟩
  | cons o os ih =>
    obtain ⟨u, hu, hinv⟩ := perform_keeps_inv o h
    obtain ⟨t, ht, hinv'⟩ := ih hinv
    exact ⟨t, by rw [runOps, hu]; exact ht, hinv'⟩

/-- Settles O13: by induction over the operations that the instruction stands for. -/
theorem traceOperationsKeepInvariant : Obligations.TraceOperationsKeepInvariant := by
  intro i s hi h
  rw [exec_eq_runOps hi]
  exact runOps_keeps_inv i.expand h

end Sys2Proof.Machine
end

section
/-! Two blocks that have received the same attempt (`10_state.md` R30, `00_scope.md` R7). -/

namespace Sys2Proof.Machine

theorem sameAttempt_of_registersReset {s t : State} (hs : RegistersReset s) (ht : RegistersReset t) :
    SameAttempt s t := by
  obtain ⟨s1, s2, s3, s4, s5⟩ := hs
  obtain ⟨t1, t2, t3, t4, t5⟩ := ht
  refine ⟨s1.trans t1.symm, s2.trans t2.symm, s3.trans t3.symm, s4.trans t4.symm, s5.trans t5.symm, fun n hn => ?_⟩
  simp [s3] at hn

/-- The effect of a pulse does not depend on DATA. -/
theorem effectOf_eq_of_sameAttempt {s t : State} (h : SameAttempt s t) (p : PulseClass) :
    effectOf p s = effectOf p t := by
  obtain ⟨hstate, hflip, htotal, -, -, -⟩ := h
  unfold effectOf isDone
  rw [hstate, hflip, htotal]

/-- Both store the same bit, above bits that are equal. -/
theorem sameAttempt_storeFlip {c d : Config} {s t : State} (f : BitVec 6) (hs : Inv c s) (ht : Inv d t)
    (hn : s.totalBits.toNat ≤ 103) (h : SameAttempt s t) : SameAttempt (storeFlip f s) (storeFlip f t) := by
  obtain ⟨-, -, htotal, hbits, hpos, hrec⟩ := h
  have hn' : t.totalBits.toNat ≤ 103 := htotal ▸ hn
  refine ⟨?_, rfl, ?_, ?_, ?_, fun n hlt => ?_⟩
  · rw [storeFlip_state, storeFlip_state, htotal]
  · rw [storeFlip_totalBits, storeFlip_totalBits, htotal]
  · exact congrArg (· + 1#3) hbits
  · show (if s.bits = 7#3 then s.pos + 1#5 else s.pos) = if t.bits = 7#3 then t.pos + 1#5 else t.pos
    rw [hbits, hpos]
  · rw [storeFlip_totalBits, totalBits_succ hn] at hlt
    have hle : n ≤ s.totalBits.toNat := by omega
    rw [recordedBit_storeFlip hs hn f hle, recordedBit_storeFlip ht hn' f (htotal ▸ hle), ← htotal]
    split
    case isTrue => rfl
    case isFalse hne => exact hrec n (by omega)

/-- Both fill with zeros, above bits that are equal. -/
theorem sameAttempt_closeFrame {c d : Config} {s t : State} (hs : Inv c s) (ht : Inv d t)
    (hn : s.totalBits.toNat ≤ 103) (h : SameAttempt s t) : SameAttempt (closeFrame s) (closeFrame t) := by
  obtain ⟨-, hflip, htotal, -, -, hrec⟩ := h
  have hn' : t.totalBits.toNat ≤ 103 := htotal ▸ hn
  have hpos : (closeFrame s).pos.toNat = (closeFrame t).pos.toNat := by
    rw [closeFrame_pos_toNat hs.counters hn, closeFrame_pos_toNat ht.counters hn', htotal]
  have htotal' : (closeFrame s).totalBits.toNat = (closeFrame t).totalBits.toNat := by
    rw [closeFrame_totalBits_toNat hs.counters hn, closeFrame_totalBits_toNat ht.counters hn', hpos]
  refine ⟨rfl, by simpa using hflip, BitVec.eq_of_toNat_eq htotal', by simp, BitVec.eq_of_toNat_eq hpos,
    fun n hlt => ?_⟩
  rw [recordedBit_closeFrame hs hn hlt, recordedBit_closeFrame ht hn' (htotal' ▸ hlt), ← htotal]
  split
  case isTrue hlt' => exact hrec n hlt'
  case isFalse => rfl

theorem PulseEffect.sameAttempt_apply {c d : Config} {s t : State} (e : PulseEffect) (hs : Inv c s) (ht : Inv d t)
    (hg : e.Guard s) (h : SameAttempt s t) : SameAttempt (e.apply s) (e.apply t) := by
  cases e with
  | nothing => exact h
  | reset => exact sameAttempt_of_registersReset (registersReset_doReset s) (registersReset_doReset t)
  | count =>
    obtain ⟨hstate, hflip, hrest⟩ := h
    exact ⟨hstate, congrArg countLong hflip, hrest⟩
  | wait =>
    obtain ⟨-, hrest⟩ := h
    exact ⟨rfl, hrest⟩
  | store f =>
    obtain ⟨hn, -⟩ := hg
    exact sameAttempt_storeFlip f hs ht hn h
  | close =>
    obtain ⟨-, hhi, -⟩ := hg
    exact sameAttempt_closeFrame hs ht hhi h

/-- R30: an operation of the boundary cannot tell the two apart. -/
theorem perform_keeps_sameAttempt {c d : Config} {o : BoundaryOp} {s s' t t' : State} (hs : Inv c s) (hs' : Inv d s')
    (h : SameAttempt s s') (ht : perform c o s = .next t) (ht' : perform d o s' = .next t') : SameAttempt t t' := by
  cases o with
  | hwreset =>
    cases ht
    cases ht'
    exact sameAttempt_of_registersReset ⟨rfl, rfl, rfl, rfl, rfl⟩ ⟨rfl, rfl, rfl, rfl, rfl⟩
  | reset =>
    cases ht
    cases ht'
    exact sameAttempt_of_registersReset (registersReset_doReset s) (registersReset_doReset s')
  | feed w =>
    have hf := perform_feed_eq_next ht
    have hf' := perform_feed_eq_next ht'
    rw [feed_eq w hs] at hf
    rw [feed_eq w hs', ← effectOf_eq_of_sameAttempt h] at hf'
    cases hf
    cases hf'
    exact PulseEffect.sameAttempt_apply _ hs hs' (guard_effectOf hs _) h
  | idle | isdone | getframe _ =>
    cases ht
    cases ht'
    exact h

/-- A whole byte is its eight recorded bits, so nothing stale is left in it (R133). -/
theorem read_eq_of_sameAttempt {c d : Config} {s t : State} (hs : Inv c s) (ht : Inv d t) (h : SameAttempt s t)
    {a : Nat} (ha : a < s.pos.toNat) : Memory.read s.data a = Memory.read t.data a := by
  obtain ⟨-, -, -, -, hpos, hrec⟩ := h
  have hcnt := hs.counters
  unfold CountersAgree at hcnt
  obtain ⟨hwf, hlt⟩ := hs.buffer
  obtain ⟨hwf', hlt'⟩ := ht.buffer
  have ha' : a < t.pos.toNat := hpos ▸ ha
  obtain ⟨x, hx⟩ := Memory.read_of_wf hwf (ha.trans hlt)
  obtain ⟨y, hy⟩ := Memory.read_of_wf hwf' (ha'.trans hlt')
  rw [hx, hy, Option.some_inj]
  refine BitVec.eq_of_getLsbD_eq fun j hj => ?_
  have hdiv : (8 * a + j) / 8 = a := by omega
  have hmod : (8 * a + j) % 8 = j := by omega
  have hbit := hrec (8 * a + j) (by omega)
  rw [recordedBit_whole (by rwa [hdiv]) (by rwa [hdiv]), recordedBit_whole (by rwa [hdiv]) (by rwa [hdiv]), hmod,
    Option.some_inj] at hbit
  exact hbit

/-- Settles O55: under the invariant FEED's effect is selected by the registers only and no effect reads a stale bit. -/
theorem staleBytesAndCapNeverMatter : Obligations.StaleBytesAndCapNeverMatter := by
  intro c d o s s' t t' hs hs' h ht ht'
  have hsame := perform_keeps_sameAttempt hs hs' h ht ht'
  obtain ⟨u, hu, hinv⟩ := perform_keeps_inv o hs
  obtain ⟨u', hu', hinv'⟩ := perform_keeps_inv o hs'
  rw [hu] at ht
  rw [hu'] at ht'
  cases ht
  cases ht'
  exact ⟨hsame, fun _ a ha => read_eq_of_sameAttempt hinv hinv' hsame ha⟩

end Sys2Proof.Machine
end

section
/-! What the operations of the boundary write, and what they leave in DONE (`20_memory.md` R62, R64, R65, `10_state.md`
R26). -/

namespace Sys2Proof.Machine

theorem SameBlock.refl (s : State) : SameBlock s s := ⟨rfl, rfl, rfl, rfl, rfl, rfl⟩

theorem SameBlock.trans {s t u : State} (h : SameBlock s t) (h' : SameBlock t u) : SameBlock s u := by
  obtain ⟨hs, hf, hn, hk, hp, hd⟩ := h
  obtain ⟨hs', hf', hn', hk', hp', hd'⟩ := h'
  exact ⟨hs'.trans hs, hf'.trans hf, hn'.trans hn, hk'.trans hk, hp'.trans hp, hd'.trans hd⟩

/-- IDLE and the two reads complete and leave the block as it is (R64). -/
theorem perform_sameBlock (c : Config) {o : BoundaryOp} (s : State) (hf : ∀ w, o ≠ .feed w) (hr : o ≠ .reset)
    (hh : o ≠ .hwreset) : ∃ t, perform c o s = .next t ∧ SameBlock s t := by
  cases o with
  | feed w => exact absurd rfl (hf w)
  | reset => exact absurd rfl hr
  | hwreset => exact absurd rfl hh
  | idle => exact ⟨s, rfl, .refl s⟩
  | isdone => exact ⟨readDone s, rfl, .refl s⟩
  | getframe r => exact ⟨readFrame r s, rfl, .refl s⟩

/-- An operation after which the block is not the same is FEED or one of the resets. -/
theorem write_of_not_sameBlock {c : Config} {o : BoundaryOp} {s t : State} (h : perform c o s = .next t)
    (hne : ¬ SameBlock s t) : (∃ w, o = .feed w) ∨ o = .reset ∨ o = .hwreset := by
  by_contra hno
  obtain ⟨hf, hr, hh⟩ : (∀ w, o ≠ .feed w) ∧ o ≠ .reset ∧ o ≠ .hwreset := by simpa using hno
  obtain ⟨u, hu, hsame⟩ := perform_sameBlock c s hf hr hh
  rw [h] at hu
  cases hu
  exact hne hsame

/-- Settles O41: what changes the block is FEED, RESET or HWRESET, and of these RESET does not write DATA. -/
theorem onlyFeedAndResetsWrite : Obligations.OnlyFeedAndResetsWrite := by
  intro c o s t h
  refine ⟨fun hd => ?_, write_of_not_sameBlock h⟩
  have hne : ¬ SameBlock s t := fun ⟨_, _, _, _, _, e⟩ => hd e
  obtain hw | rfl | hh := write_of_not_sameBlock h hne
  · exact .inl hw
  · cases h
    exact absurd (doReset_data s) hd
  · exact .inr hh

/-- In DONE every operation but the two resets completes and leaves the block as it is: FEED is a no-op (R118). -/
theorem perform_done_sameBlock (c : Config) {o : BoundaryOp} {s : State} (hs : s.state = .done) (hr : o ≠ .reset)
    (hh : o ≠ .hwreset) : ∃ t, perform c o s = .next t ∧ SameBlock s t := by
  by_cases hf : ∃ w, o = .feed w
  · obtain ⟨w, rfl⟩ := hf
    exact ⟨s, by rw [perform, feed_done c w hs, finish_ok], .refl s⟩
  · exact perform_sameBlock c s (fun w e => hf ⟨w, e⟩) hr hh

/-- Settles O40: by induction over the operations, each of which finds STATE still DONE. -/
theorem frameSurvivesPulses : Obligations.FrameSurvivesPulses := by
  intro c os
  induction os with
  | nil => exact fun s _ _ => ⟨s, rfl, .refl s⟩
  | cons o os ih =>
    intro s hs hos
    obtain ⟨⟨hr, hh⟩, hrest⟩ := List.forall_mem_cons.mp hos
    obtain ⟨u, hu, hsame⟩ := perform_done_sameBlock c hs hr hh
    obtain ⟨t, ht, hsame'⟩ := ih u (hsame.1.trans hs) hrest
    exact ⟨t, by rw [runOps, hu]; exact ht, hsame.trans hsame'⟩

end Sys2Proof.Machine
end

section
/-! One FEED writes at most the byte at the POS it starts with (`20_memory.md` R54), in every state whose buffer is
whole, forced and overflowing ones among them: a padding that follows a recorded bit stays at that byte or writes nothing. -/

namespace Sys2Proof.Machine

theorem AccFrame.refl (s : State) : AccFrame s s := ⟨⟨rfl, rfl, rfl⟩, fun _ _ => rfl⟩

theorem AccFrame.trans {s u t : State} (h : AccFrame s u) (hp : u.pos = s.pos) (h' : AccFrame u t) : AccFrame s t := by
  obtain ⟨⟨hpend, hobs, hdraws⟩, hbytes⟩ := h
  obtain ⟨⟨hpend', hobs', hdraws'⟩, hbytes'⟩ := h'
  refine ⟨⟨hpend'.trans hpend, hobs'.trans hobs, hdraws'.trans hdraws⟩, fun k hk => ?_⟩
  rw [hbytes' k (by rwa [hp]), hbytes k hk]

theorem bufferOk_doReset {c : Config} {s : State} (h : BufferOk c s) : BufferOk c (doReset s) := by
  obtain ⟨hwf, -⟩ := h
  exact (inv_of_registersReset (s := doReset s) hwf (registersReset_doReset s)).buffer

theorem accFrame_doReset (s : State) : AccFrame s (doReset s) := ⟨⟨rfl, rfl, rfl⟩, fun _ _ => rfl⟩

/-- RECBIT ends at a byte boundary, or at the byte it started with. -/
theorem recbit_bits_or_pos {c : Config} {v : Bool} {s t : State} {r : RecResult} (h : recbit c v s = .ok (r, t)) :
    t.bits = 0#3 ∨ t.pos = s.pos := by
  obtain ⟨b, -, ⟨-, e⟩ | ⟨-, e⟩⟩ := recbit_cases h <;> cases e
  · by_cases h7 : s.bits = 7#3
    · exact .inl (by simp [h7])
    · exact .inr (by simp [h7])
  · exact .inl (overflowed_bits v b s)

/-- What a branch of the protocol step leaves: POS in a whole buffer, nothing written but the byte at the old POS, and
no other byte that is partial, so that a completion writes no other byte either. -/
structure BranchFrame (c : Config) (s t : State) : Prop where
  buffer : BufferOk c t
  frame  : AccFrame s t
  atByte : t.bits = 0#3 ∨ t.pos = s.pos

theorem recman_branchFrame {c : Config} (v : Bool) {s : State} (h : BufferOk c s) :
    ∃ r t, recman c v s = .ok (r, t) ∧ BranchFrame c s t := by
  obtain ⟨r, t, hr, ht⟩ := recman_total v h
  have hat := recbit_bits_or_pos (s := { s with flip := toggleFlip v s.flip }) hr
  exact ⟨r, t, hr, ht, recman_frame hr, hat⟩

theorem recordThen_branchFrame {c : Config} (v : Bool) (d : DecoderState) {s : State} (h : BufferOk c s) :
    ∃ t, recordThen c v d s = .ok t ∧ BranchFrame c s t := by
  obtain ⟨r, t, hr, hbuf, hframe, hat⟩ := recman_branchFrame v h
  cases r with
  | ok => exact ⟨{ t with state := d }, by rw [recordThen, hr], hbuf, ⟨hframe.outside, hframe.bytes⟩, hat⟩
  | overflow => exact ⟨t, by rw [recordThen, hr], hbuf, hframe, hat⟩

theorem preambleFound_branchFrame {c : Config} {s : State} (h : BufferOk c s) :
    ∃ t, preambleFound c s = .ok t ∧ BranchFrame c s t := by
  obtain ⟨t, ht, hbuf, hframe, hat⟩ := recordThen_branchFrame (s := { s with flip := 1#6 }) true .ok h
  exact ⟨t, ht, hbuf, ⟨hframe.outside, hframe.bytes⟩, hat⟩

theorem recordToggle_branchFrame {c : Config} {s : State} (h : BufferOk c s) :
    ∃ t, recordToggle c s = .ok t ∧ BranchFrame c s t := by
  obtain ⟨r, t, hr, hframe⟩ := recman_branchFrame true h
  exact ⟨t, by rw [recordToggle, hr], hframe⟩

theorem branchFrame_countPreamble {c : Config} {s : State} (h : BufferOk c s) : BranchFrame c s (countPreamble s) :=
  ⟨h, ⟨⟨rfl, rfl, rfl⟩, fun _ _ => rfl⟩, .inr rfl⟩

theorem branchFrame_firstHalf {c : Config} {s : State} (h : BufferOk c s) : BranchFrame c s (firstHalf s) :=
  ⟨h, ⟨⟨rfl, rfl, rfl⟩, fun _ _ => rfl⟩, .inr rfl⟩

/-- Completion after a branch: at a byte boundary it writes no byte, and otherwise the byte at the old POS. -/
theorem complete_after_branch {c : Config} {s u t : State} (h : BranchFrame c s u) (ht : complete c u = .ok t) :
    AccFrame s t := by
  obtain ⟨-, hframe, h0 | hp⟩ := h
  · rw [complete_aligned c h0] at ht
    cases ht
    exact ⟨hframe.outside, hframe.bytes⟩
  · exact hframe.trans hp (complete_frame ht)

/-- The full-frame test after a branch (R161), and the completion it may ask for. -/
theorem respond_after_branch {c : Config} {s u : State} (h : BranchFrame c s u) :
    ∃ t, respond c (.ok (fullFrameTest u)) = .ok t ∧ BufferOk c t ∧ AccFrame s t := by
  rw [respond_fullFrameTest]
  split
  · obtain ⟨t, ht, hbuf⟩ := complete_total h.buffer
    exact ⟨t, ht, hbuf, complete_after_branch h ht⟩
  · exact ⟨u, rfl, h.buffer, h.frame⟩

/-- The full-frame test after a branch that records a bit. -/
theorem respond_after_recording {c : Config} {s : State} {r : Except Fault State}
    (h : ∃ u, r = .ok u ∧ BranchFrame c s u) :
    ∃ t, respond c (thenFullFrameTest r) = .ok t ∧ BufferOk c t ∧ AccFrame s t := by
  obtain ⟨u, rfl, hu⟩ := h
  exact respond_after_branch hu

theorem feed_gap_total {c : Config} {w : Width} {s : State} (h : BufferOk c s) (hd : s.state ≠ .done)
    (hw : classify w = .gap) : ∃ t, feed c w s = .ok t ∧ BufferOk c t ∧ AccFrame s t := by
  cases hb : inShortBand s.totalBits with
  | true =>
    obtain ⟨t, ht, hbuf⟩ := complete_total h
    exact ⟨t, (feed_gap_complete c hd hw hb).trans ht, hbuf, complete_frame ht⟩
  | false => exact ⟨_, feed_gap_invalid c hd hw hb, bufferOk_doReset h, accFrame_doReset s⟩

theorem feed_long_total {c : Config} {w : Width} {s : State} (h : BufferOk c s) (hd : s.state ≠ .done)
    (hw : classify w = .long) : ∃ t, feed c w s = .ok t ∧ BufferOk c t ∧ AccFrame s t := by
  cases hs : s.state with
  | unknown =>
    rw [feed_unknown_long c hs hw]
    exact respond_after_branch (branchFrame_countPreamble h)
  | ok =>
    rw [feed_ok_long c hs hw]
    exact respond_after_recording (recordToggle_branchFrame h)
  | t0 => exact ⟨_, feed_t0_long c hs hw, bufferOk_doReset h, accFrame_doReset s⟩
  | done => exact absurd hs hd
  | t1 | t2 | t3 | code7 =>
    exact ⟨_, feed_reserved c (by rw [hs]; rfl) (by simp [hw]), bufferOk_doReset h, accFrame_doReset s⟩

theorem feed_short_total {c : Config} {w : Width} {s : State} (h : BufferOk c s) (hd : s.state ≠ .done)
    (hw : classify w = .short) : ∃ t, feed c w s = .ok t ∧ BufferOk c t ∧ AccFrame s t := by
  cases hs : s.state with
  | unknown =>
    cases hf : preambleSeen s.flip with
    | true =>
      rw [feed_sync c hs hw hf]
      exact respond_after_recording (preambleFound_branchFrame h)
    | false => exact ⟨_, feed_early c hs hw hf, bufferOk_doReset h, accFrame_doReset s⟩
  | ok =>
    rw [feed_ok_short c hs hw]
    exact respond_after_branch (branchFrame_firstHalf h)
  | t0 =>
    rw [feed_t0_short c hs hw]
    exact respond_after_recording (recordThen_branchFrame false .ok h)
  | done => exact absurd hs hd
  | t1 | t2 | t3 | code7 =>
    exact ⟨_, feed_reserved c (by rw [hs]; rfl) (by simp [hw]), bufferOk_doReset h, accFrame_doReset s⟩

/-- With POS in a whole buffer FEED completes, leaves it so, and writes at most the byte at the old POS. -/
theorem feed_total {c : Config} (w : Width) {s : State} (h : BufferOk c s) :
    ∃ t, feed c w s = .ok t ∧ BufferOk c t ∧ AccFrame s t := by
  by_cases hd : s.state = .done
  · exact ⟨s, feed_done c w hd, h, .refl s⟩
  · cases hw : classify w with
    | gap => exact feed_gap_total h hd hw
    | long => exact feed_long_total h hd hw
    | short => exact feed_short_total h hd hw

/-- The operand-class rows run as FEED, whatever the width (log entry 9). -/
theorem exec_feed_rows (w : Width) (s : State) :
    ∀ i ∈ [Instr.feed w, .feedGapLow w, .feedShort w, .feedLong w, .feedGapHigh w],
      exec i s = finish (feed Config.hw w s) := by
  simp only [List.forall_mem_cons]
  exact ⟨rfl, rfl, rfl, rfl, rfl, List.forall_mem_nil _⟩

/-- Settles O25. -/
theorem feedCompletesWithFrame : Obligations.FeedCompletesWithFrame := by
  intro w s h i hi
  obtain ⟨t, ht, hbuf, hframe⟩ := feed_total w h
  exact ⟨t, by rw [exec_feed_rows w s i hi, ht, finish_ok], hbuf, hframe.bytes, hframe.outside⟩

end Sys2Proof.Machine
end

section
/-! Every instruction completes wherever POS is in a whole buffer (`20_memory.md` R66, `10_state.md` R41). -/

namespace Sys2Proof.Machine

theorem perform_keeps_bufferOk {c : Config} (o : BoundaryOp) {s : State} (h : BufferOk c s) :
    ∃ t, perform c o s = .next t ∧ BufferOk c t := by
  cases o with
  | hwreset =>
    exact ⟨_, rfl, (inv_of_registersReset (Memory.wf_powerOnData c _) ⟨rfl, rfl, rfl, rfl, rfl⟩).buffer⟩
  | reset => exact ⟨doReset s, rfl, bufferOk_doReset h⟩
  | feed w =>
    obtain ⟨t, ht, hbuf, -⟩ := feed_total w h
    exact ⟨t, by rw [perform, ht, finish_ok], hbuf⟩
  | idle => exact ⟨s, rfl, h⟩
  | isdone => exact ⟨readDone s, rfl, h⟩
  | getframe r => exact ⟨readFrame r s, rfl, h⟩

theorem runOps_keeps_bufferOk {c : Config} (os : List BoundaryOp) {s : State} (h : BufferOk c s) :
    ∃ t, runOps c os s = .next t ∧ BufferOk c t := by
  induction os generalizing s with
  | nil => exact ⟨s, rfl, h⟩
  | cons o os ih =>
    obtain ⟨u, hu, hbuf⟩ := perform_keeps_bufferOk o h
    obtain ⟨t, ht, hbuf'⟩ := ih hbuf
    exact ⟨t, by rw [runOps, hu]; exact ht, hbuf'⟩

/-- A line of the map completes where its effect does; where it is not selected it changes nothing (log entry 9). -/
theorem whenSelected_keeps_bufferOk {c : Config} (selected : Bool) {effect : Except Fault State} {s : State}
    (h : BufferOk c s) (he : ∃ t, effect = .ok t ∧ BufferOk c t) :
    ∃ t, whenSelected selected effect s = .next t ∧ BufferOk c t := by
  obtain ⟨t, rfl, ht⟩ := he
  cases selected with
  | true => exact ⟨t, rfl, ht⟩
  | false => exact ⟨s, rfl, h⟩

/-- A micro-operation completes where the operation of the accumulator answers. -/
theorem finish_stateOf_keeps_bufferOk {c : Config} {m : Except Fault (RecResult × State)}
    (h : ∃ r t, m = .ok (r, t) ∧ BufferOk c t) : ∃ t, finish (stateOf m) = .next t ∧ BufferOk c t := by
  obtain ⟨r, t, rfl, ht⟩ := h
  exact ⟨t, rfl, ht⟩

/-- Settles O12: what can stand in a trace is a list of boundary operations; a line of the map is its effect or nothing;
a micro-operation is an operation of the accumulator. -/
theorem everyInstructionCompletes : Obligations.EveryInstructionCompletes := by
  intro i s h
  have hreset : ∃ t, Except.ok (doReset s) = (.ok t : Except Fault State) ∧ BufferOk Config.hw t :=
    ⟨_, rfl, bufferOk_doReset h⟩
  cases i with
  | stepDoneAny p => exact whenSelected_keeps_bufferOk _ h ⟨s, rfl, h⟩
  | stepGapComplete | stepFullFrame p => exact whenSelected_keeps_bufferOk _ h (complete_total h)
  | stepGapInvalid | stepUnknownShortEarly | stepT0Long | stepReserved p =>
    exact whenSelected_keeps_bufferOk _ h hreset
  | stepUnknownLong => exact whenSelected_keeps_bufferOk _ h ⟨countPreamble s, rfl, h⟩
  | stepUnknownShortSync =>
    exact whenSelected_keeps_bufferOk _ h (recordThen_total (s := { s with flip := 1#6 }) true .ok h)
  | stepOkShort => exact whenSelected_keeps_bufferOk _ h ⟨firstHalf s, rfl, h⟩
  | stepOkLong => exact whenSelected_keeps_bufferOk _ h (recordToggle_total h)
  | stepT0Short => exact whenSelected_keeps_bufferOk _ h (recordThen_total false .ok h)
  | recbit v => exact finish_stateOf_keeps_bufferOk (recbit_total v h)
  | recman v => exact finish_stateOf_keeps_bufferOk (recman_total v h)
  | pad => exact finish_stateOf_keeps_bufferOk (pad_total h)
  | doReset => exact ⟨doReset s, rfl, bufferOk_doReset h⟩
  | reset | feed _ | idle | hwreset | isdone | getframe _ | feedGapLow _ | feedShort _ | feedLong _ | feedGapHigh _
  | long | short | gap | preamble _ | sync | toggle | same | frameBits _ | frameBytes _ | rep _ _ =>
    rw [exec_eq_runOps rfl]
    exact runOps_keeps_bufferOk _ h

end Sys2Proof.Machine
end

section
/-! Decoding the operation word, its layout in three bytes, and that decoding gives back what encoding presents
(`30_encoding.md` R82, R83, R90, R94, R96). -/

namespace Sys2Proof

/-! ## The operation word (R83) -/

theorem decodeWord_of_clear {w : OpWord} (hc : w.getLsbD 17 = true) : decodeWord w = .reset := by
  rw [decodeWord, if_pos hc]

theorem decodeWord_of_valid {w : OpWord} (hc : w.getLsbD 17 = false) (hv : w.getLsbD 16 = true) :
    decodeWord w = .feed (w.extractLsb' 0 16) := by
  rw [decodeWord, if_neg (ne_true_of_eq_false hc), if_pos hv]

theorem decodeWord_of_quiet {w : OpWord} (hc : w.getLsbD 17 = false) (hv : w.getLsbD 16 = false) :
    decodeWord w = .idle := by
  rw [decodeWord, if_neg (ne_true_of_eq_false hc), if_neg (ne_true_of_eq_false hv)]

/-- Only a word with bit 17 clear and bit 16 set decodes to FEED. -/
theorem decodeWord_eq_feed {x : OpWord} {w : Width} (h : decodeWord x = .feed w) :
    x.getLsbD 17 = false ∧ x.getLsbD 16 = true ∧ x.extractLsb' 0 16 = w := by
  cases hc : x.getLsbD 17 with
  | true => rw [decodeWord_of_clear hc] at h; cases h
  | false =>
    cases hv : x.getLsbD 16 with
    | true => rw [decodeWord_of_valid hc hv] at h; cases h; exact ⟨rfl, rfl, rfl⟩
    | false => rw [decodeWord_of_quiet hc hv] at h; cases h

/-- The word of FEED bit by bit: the width, then `pulse_valid`, then `clear`. -/
theorem getLsbD_feedWord (w : Width) (i : Nat) :
    (0x10000#18 ||| w.zeroExtend 18).getLsbD i = if i < 16 then w.getLsbD i else decide (i = 16) := by
  have h1 : (0x10000#18).getLsbD i = decide (i = 16) := by
    rw [show (0x10000#18) = BitVec.twoPow 18 16 from rfl, BitVec.getLsbD_twoPow]
    simp [eq_comm]
  rw [BitVec.getLsbD_or, h1, BitVec.zeroExtend_eq_setWidth, BitVec.getLsbD_setWidth]
  by_cases hi : i < 16
  · simp [hi, show i ≠ 16 by omega, show i < 18 by omega]
  · simp [hi, BitVec.getLsbD_of_ge w i (by omega)]

theorem decodeWord_feedWord (w : Width) : decodeWord (0x10000#18 ||| w.zeroExtend 18) = .feed w := by
  rw [decodeWord_of_valid (by rw [getLsbD_feedWord]; rfl) (by rw [getLsbD_feedWord]; rfl)]
  congr 1
  apply BitVec.eq_of_getLsbD_eq
  intro i hi
  rw [BitVec.getLsbD_extractLsb', Nat.zero_add, getLsbD_feedWord, if_pos hi]
  simp [hi]

/-- No bit of a FEED word is dropped: the word is the one its width encodes to. -/
theorem feedWord_of_decodeWord {x : OpWord} {w : Width} (h : decodeWord x = .feed w) :
    0x10000#18 ||| w.zeroExtend 18 = x := by
  obtain ⟨hc, hv, rfl⟩ := decodeWord_eq_feed h
  apply BitVec.eq_of_getLsbD_eq
  intro i hi
  rw [getLsbD_feedWord]
  by_cases hlow : i < 16
  · rw [if_pos hlow, BitVec.getLsbD_extractLsb', Nat.zero_add]
    simp [hlow]
  · have : i = 16 ∨ i = 17 := by omega
    obtain rfl | rfl := this
    · exact hv.symm
    · exact hc.symm

/-! ## What is presented decodes to what it was encoded from (R94) -/

theorem BoundaryOp.decode_encode (o : BoundaryOp) : o.encode.decode = o := by
  cases o with
  | feed w => exact decodeWord_feedWord w
  | hwreset | reset | idle | isdone | getframe _ => rfl

theorem BoundaryOp.decodeWord_of_word {o : BoundaryOp} {w : OpWord} (h : o.word = some w) : decodeWord w = o := by
  cases o with
  | reset | idle => cases h; rfl
  | feed w => cases h; exact decodeWord_feedWord w
  | hwreset | isdone | getframe _ => cases h

theorem expand_toInstr (o : BoundaryOp) : o.toInstr.expand = [o] := by cases o <;> rfl

/-- The events of an instruction decode to the operations it stands for. -/
theorem decode_encode (i : Instr) : (encode i).map PortEvent.decode = i.expand := by
  simp [encode, Function.comp_def, BoundaryOp.decode_encode]

/-! ## The three bytes of a word (log entry 11) -/

theorem decode_threeBytes {n : Nat} (h : n < 2 ^ 18) :
    decode (threeBytes n) = .ok (decodeWord (BitVec.ofNat 18 n)).toInstr := by
  have hsum : n % 2 ^ 8 + 256 * (n / 256 % 2 ^ 8) + 65536 * (n / 65536 % 2 ^ 8) = n := by omega
  simp only [threeBytes, decode, BitVec.toNat_ofNat, hsum]
  rw [if_pos h]

theorem decode_encodeBytes (w : OpWord) : decode (encodeBytes w) = .ok (decodeWord w).toInstr := by
  rw [encodeBytes, decode_threeBytes w.isLt, BitVec.ofNat_toNat, BitVec.setWidth_eq]

theorem decodeTableWord_eq {n : Nat} (h : n < 2 ^ 18) :
    decodeTableWord 24 n = some (decodeWord (BitVec.ofNat 18 n)).toInstr := by
  have hmod : n % 2 ^ 24 = n := Nat.mod_eq_of_lt (by omega)
  have hlt : n < 2 ^ 24 := by omega
  simp only [decodeTableWord, hmod]
  rw [if_pos hlt, decode_threeBytes h]
  rfl

theorem decodeTableWord_toNat (w : OpWord) : decodeTableWord 24 w.toNat = some (decodeWord w).toInstr := by
  rw [decodeTableWord_eq w.isLt, BitVec.ofNat_toNat, BitVec.setWidth_eq]

/-- A third byte of 4 or more sets a bit above bit 17. -/
theorem decode_wider (b0 b1 : Byte) {b2 : Byte} (h : 4 ≤ b2.toNat) :
    decode [b0, b1, b2] = .error .widerThanEighteenBits := by
  rw [decode]
  exact if_neg (by omega)

theorem decode_notThreeBytes {bytes : List Byte} (h : bytes.length ≠ 3) :
    decode bytes = .error .notThreeBytes := by
  unfold decode
  split
  · exact absurd rfl h
  · rfl

/-! ## The statements -/

/-- Settles O1: the four lines of the priority, one lemma each. -/
theorem decodeFollowsPriority : Obligations.DecodeFollowsPriority := fun _ =>
  ⟨rfl, decodeWord_of_clear, decodeWord_of_valid, decodeWord_of_quiet⟩

/-- Settles O2: the encoder on eleven widths and the decoder on six words. -/
theorem workedWordsDecode : Obligations.WorkedWordsDecode := by
  constructor
  · decide
  · rfl

/-- Settles O3: by the layout of a word in three bytes, the size of the third byte and the length of the list. -/
theorem everyWordDecodes : Obligations.EveryWordDecodes :=
  ⟨decode_encodeBytes, fun b0 b1 _ => decode_wider b0 b1, fun _ => decode_notThreeBytes⟩

/-- Settles O4: everything rests on the FEED word, whose sixteen low bits are its width and whose two high bits are 01. -/
theorem decodeOfEncode : Obligations.DecodeOfEncode := by
  refine ⟨fun i _ => decode_encode i, fun o => ⟨o.decode_encode, ?_⟩, fun o w h => ?_, fun x w h => ?_⟩
  · rw [encode, expand_toInstr, List.map_singleton]
  · rw [decode_encodeBytes, decodeTableWord_toNat, BoundaryOp.decodeWord_of_word h]
    exact ⟨rfl, rfl⟩
  · rw [BoundaryOp.word, feedWord_of_decodeWord h]

end Sys2Proof
end

section
/-! One step is the next port event decoded and executed, and no operation of the block looks at what is pending behind
it, so that a trace is the run of its encoding (`30_encoding.md` R83, R94, `20_memory.md` R60). -/

namespace Sys2Proof.Machine

/-! ## One step -/

theorem step_of_pending {s : State} {e : PortEvent} {rest : List PortEvent} (h : s.pending = e :: rest) :
    step s = exec e.decode.toInstr { s with pending := rest } := by
  simp only [step, nextInstr, State.taken, h, List.tail_cons]

theorem step_of_quiet {s : State} (h : s.pending = []) : step s = exec .idle s := by
  have htaken : s.taken = s := by rw [State.taken, h, List.tail_nil, ← h]
  rw [step, htaken, nextInstr, h]

/-- Settles O5: by whether an event is pending. -/
theorem stepRunsDecodedInstr : Obligations.StepRunsDecodedInstr :=
  fun _ => ⟨fun _ _ => step_of_pending, step_of_quiet⟩

/-- Settles O6: the placed word is the oldest event, and the table numbers its bits as the port does. -/
theorem placedWordRunsNext : Obligations.PlacedWordRunsNext := by
  intro s w hw
  refine ⟨_, decodeTableWord_eq hw, ?_⟩
  have hmod : w % 2 ^ 24 = w := Nat.mod_eq_of_lt (by omega)
  rw [step_of_pending (withFetchWord_pending s 24 w), hmod]
  rfl

/-! ## What is pending plays no part in an operation -/

/-- The block with other events pending. -/
def State.withPending (p : List PortEvent) (s : State) : State := { s with pending := p }

/-- An outcome in which other events are pending. -/
def outcomeWithPending (p : List PortEvent) (o : Host.Outcome State Fault Refusal) :
    Host.Outcome State Fault Refusal :=
  match o with
  | .next s    => .next (s.withPending p)
  | .fault f   => .fault f
  | .refused r => .refused r

section WithPending
variable (c : Config) (p : List PortEvent) (s : State)

@[simp] theorem withPending_state : (s.withPending p).state = s.state := rfl
@[simp] theorem withPending_flip : (s.withPending p).flip = s.flip := rfl
@[simp] theorem withPending_totalBits : (s.withPending p).totalBits = s.totalBits := rfl
@[simp] theorem withPending_bits : (s.withPending p).bits = s.bits := rfl
@[simp] theorem withPending_pos : (s.withPending p).pos = s.pos := rfl
@[simp] theorem withPending_data : (s.withPending p).data = s.data := rfl
@[simp] theorem withPending_pending : (s.withPending p).pending = p := rfl

theorem withPending_self : s.withPending s.pending = s := rfl

theorem finish_map_withPending (r : Except Fault State) :
    finish (r.map (State.withPending p)) = outcomeWithPending p (finish r) := by
  cases r <;> rfl

theorem recbit_withPending (v : Bool) :
    recbit c v (s.withPending p) = (recbit c v s).map (Prod.map id (State.withPending p)) := by
  cases hb : Memory.read s.data s.pos.toNat with
  | none => rw [recbit_fault hb, recbit_fault (s := s.withPending p) hb]; rfl
  | some b =>
    by_cases ho : overflows c s
    · rw [recbit_overflow hb ho, recbit_overflow (s := s.withPending p) hb ho]; rfl
    · rw [recbit_room hb ho, recbit_room (s := s.withPending p) hb ho]; rfl

theorem recman_withPending (v : Bool) :
    recman c v (s.withPending p) = (recman c v s).map (Prod.map id (State.withPending p)) :=
  recbit_withPending c p { s with flip := toggleFlip v s.flip } _

theorem padLoop_withPending (n : Nat) :
    padLoop c n (s.withPending p) = (padLoop c n s).map (Prod.map id (State.withPending p)) := by
  induction n generalizing s with
  | zero => rfl
  | succ n ih =>
    by_cases h0 : s.bits = 0#3
    · rw [padLoop_aligned c _ h0, padLoop_aligned c _ (s := s.withPending p) h0]; rfl
    · rw [padLoop, padLoop, withPending_bits, if_neg h0, if_neg h0, recbit_withPending]
      cases hr : recbit c false s with
      | error f => rfl
      | ok q =>
        obtain ⟨r, t⟩ := q
        cases r with
        | ok => exact ih t
        | overflow => rfl

theorem complete_withPending :
    complete c (s.withPending p) = (complete c s).map (State.withPending p) := by
  rw [complete, complete, pad, pad, padLoop_withPending]
  cases padLoop c 7 s with
  | error f => rfl
  | ok q =>
    obtain ⟨r, t⟩ := q
    cases r <;> rfl

theorem recordThen_withPending (v : Bool) (d : DecoderState) :
    recordThen c v d (s.withPending p) = (recordThen c v d s).map (State.withPending p) := by
  rw [recordThen, recordThen, recman_withPending]
  cases recman c v s with
  | error f => rfl
  | ok q =>
    obtain ⟨r, t⟩ := q
    cases r <;> rfl

theorem recordToggle_withPending :
    recordToggle c (s.withPending p) = (recordToggle c s).map (State.withPending p) := by
  rw [recordToggle, recordToggle, recman_withPending]
  cases recman c true s <;> rfl

theorem fullFrameTest_withPending :
    fullFrameTest (s.withPending p) = Prod.map id (State.withPending p) (fullFrameTest s) := by
  rw [fullFrameTest, fullFrameTest, withPending_totalBits]
  split <;> rfl

theorem thenFullFrameTest_withPending (r : Except Fault State) :
    thenFullFrameTest (r.map (State.withPending p)) =
      (thenFullFrameTest r).map (Prod.map id (State.withPending p)) := by
  cases r with
  | error f => rfl
  | ok t => exact congrArg Except.ok (fullFrameTest_withPending p t)

theorem decodeV3_withPending (k : PulseClass) :
    decodeV3 c k (s.withPending p) = (decodeV3 c k s).map (Prod.map id (State.withPending p)) := by
  cases k with
  | gap => rw [decodeV3_gap, decodeV3_gap]; rfl
  | long =>
    cases hs : s.state with
    | unknown =>
      simp only [decodeV3, withPending_state, hs]
      exact congrArg Except.ok (fullFrameTest_withPending p (countPreamble s))
    | ok =>
      simp only [decodeV3, withPending_state, hs, recordToggle_withPending]
      exact thenFullFrameTest_withPending p _
    | done =>
      simp only [decodeV3, withPending_state, hs, fullFrameTest_withPending]
      rfl
    | t0 | t1 | t2 | t3 | code7 =>
      simp only [decodeV3, withPending_state, hs]
      rfl
  | short =>
    cases hs : s.state with
    | unknown =>
      cases hf : preambleSeen s.flip with
      | true =>
        have hfound : preambleFound c (s.withPending p) = (preambleFound c s).map (State.withPending p) :=
          recordThen_withPending c p { s with flip := 1#6 } true .ok
        simp only [decodeV3, withPending_state, withPending_flip, hs, hf, if_true, hfound]
        exact thenFullFrameTest_withPending p _
      | false =>
        simp only [decodeV3, withPending_state, withPending_flip, hs, hf, Bool.false_eq_true, if_false]
        rfl
    | ok =>
      simp only [decodeV3, withPending_state, hs]
      exact congrArg Except.ok (fullFrameTest_withPending p (firstHalf s))
    | t0 =>
      simp only [decodeV3, withPending_state, hs, secondHalf, recordThen_withPending]
      exact thenFullFrameTest_withPending p _
    | done =>
      simp only [decodeV3, withPending_state, hs, fullFrameTest_withPending]
      rfl
    | t1 | t2 | t3 | code7 =>
      simp only [decodeV3, withPending_state, hs]
      rfl

theorem respond_withPending (r : Except Fault (StepOutcome × State)) :
    respond c (r.map (Prod.map id (State.withPending p))) = (respond c r).map (State.withPending p) := by
  cases r with
  | error f => rfl
  | ok q =>
    obtain ⟨o, t⟩ := q
    cases o with
    | invalid cause => rfl
    | complete => exact complete_withPending c p t
    | continues => rfl

theorem feed_withPending (w : Width) :
    feed c w (s.withPending p) = (feed c w s).map (State.withPending p) := by
  by_cases hd : s.state = .done
  · rw [feed_done c w hd, feed_done c w (s := s.withPending p) hd]
    rfl
  · rw [feed_live c w hd, feed_live c w (s := s.withPending p) hd, decodeV3_withPending, respond_withPending]

theorem perform_withPending (o : BoundaryOp) :
    perform c o (s.withPending p) = outcomeWithPending p (perform c o s) := by
  cases o with
  | feed w => rw [perform, perform, feed_withPending, finish_map_withPending]
  | hwreset | reset | idle | isdone => rfl
  | getframe r => cases r <;> rfl

end WithPending

/-- An operation presents nothing and takes nothing. -/
theorem perform_pending {c : Config} {o : BoundaryOp} {s t : State} (h : perform c o s = .next t) :
    t.pending = s.pending := by
  have hself := perform_withPending c s.pending s o
  rw [withPending_self, h] at hself
  injection hself with ht
  rw [ht, withPending_pending]

/-! ## A trace is the run of its encoding -/

theorem run_succ_of_next {M : Host.Core} {s t : M.State} (k : Nat) (h : M.step s = .next t) :
    M.run (k + 1) s = M.run k t := by
  simp only [Host.Core.run, h]

theorem run_succ_of_fault {M : Host.Core} {s : M.State} {f : M.Fault} (k : Nat) (h : M.step s = .fault f) :
    M.run (k + 1) s = .fault f := by
  simp only [Host.Core.run, h]

theorem run_succ_of_refused {M : Host.Core} {s : M.State} {r : M.Refusal} (k : Nat) (h : M.step s = .refused r) :
    M.run (k + 1) s = .refused r := by
  simp only [Host.Core.run, h]

/-- A step with the event pending in front is its operation, the rest staying pending. -/
theorem step_withPending (e : PortEvent) (rest : List PortEvent) (s : State) :
    step (s.withPending (e :: rest)) = outcomeWithPending rest (perform Config.hw e.decode s) := by
  rw [step_of_pending rfl, exec_toInstr]
  exact perform_withPending Config.hw rest s e.decode

/-- As many steps as there are events pending in front are the operations the events decode to. -/
theorem run_pending (es : List PortEvent) (s : State) :
    Host.Core.run Sys2Proof.core es.length (s.withPending (es ++ s.pending)) =
      runOps Config.hw (es.map PortEvent.decode) s := by
  induction es generalizing s with
  | nil => rfl
  | cons e es ih =>
    have hstep := step_withPending e (es ++ s.pending) s
    rw [List.map_cons, runOps]
    cases hp : perform Config.hw e.decode s with
    | next t =>
      rw [hp, ← perform_pending hp] at hstep
      rw [← perform_pending hp]
      exact (run_succ_of_next es.length hstep).trans (ih t)
    | fault f =>
      rw [hp] at hstep
      exact run_succ_of_fault es.length hstep
    | refused r =>
      rw [hp] at hstep
      exact run_succ_of_refused es.length hstep

/-- Settles O7: the events of the encoding decode to the operations the instruction stands for. -/
theorem traceRunsStepByStep : Obligations.TraceRunsStepByStep := by
  intro i s hi
  rw [exec_eq_runOps hi, ← decode_encode i]
  exact run_pending (encode i) s

end Sys2Proof.Machine
end

section
/-! Instructions of a trace that stand for the same operations have the same outcome: the symbols, REP and the frame
pseudo-operations as sequences of one another (`30_encoding.md` R87, R94, R95). -/

namespace Sys2Proof.Machine

/-! ## Outcomes by expansion -/

theorem runInstrs_singleton (i : Instr) (s : State) : runInstrs [i] s = exec i s := by
  rw [runInstrs]
  cases exec i s <;> rfl

theorem runOps_append (c : Config) (as bs : List BoundaryOp) {s t : State} (h : runOps c as s = .next t) :
    runOps c (as ++ bs) s = runOps c bs t := by
  induction as generalizing s with
  | nil => cases h; rfl
  | cons o as ih =>
    rw [List.cons_append, runOps]
    rw [runOps] at h
    cases hp : perform c o s with
    | next u => rw [hp] at h; exact ih h
    | fault f => rw [hp] at h; cases h
    | refused r => rw [hp] at h; cases h

/-- The first stop ends the operations. -/
theorem runOps_append_of_stop (c : Config) (as bs : List BoundaryOp) {s : State} (h : ∀ t, runOps c as s ≠ .next t) :
    runOps c (as ++ bs) s = runOps c as s := by
  induction as generalizing s with
  | nil => exact absurd rfl (h s)
  | cons o as ih =>
    rw [runOps] at h
    rw [List.cons_append, runOps, runOps]
    cases hp : perform c o s with
    | next u => rw [hp] at h; exact ih h
    | fault f => rfl
    | refused r => rfl

/-- Instructions one after the other are the operations they stand for, one after the other. -/
theorem runInstrs_eq_runOps {is : List Instr} (h : ∀ i ∈ is, i.asTrace.isSome = true) (s : State) :
    runInstrs is s = runOps Config.hw (is.flatMap Instr.expand) s := by
  induction is generalizing s with
  | nil => rfl
  | cons i is ih =>
    obtain ⟨hi, his⟩ := List.forall_mem_cons.mp h
    rw [runInstrs, List.flatMap_cons, exec_eq_runOps hi]
    cases hr : runOps Config.hw i.expand s with
    | next t => rw [runOps_append _ _ _ hr]; exact ih his t
    | fault f => rw [runOps_append_of_stop _ _ _ (by simp [hr]), hr]
    | refused r => rw [runOps_append_of_stop _ _ _ (by simp [hr]), hr]

theorem exec_eq_exec {i j : Instr} {s : State} (hi : i.asTrace.isSome = true) (hj : j.asTrace.isSome = true)
    (h : i.expand = j.expand) : exec i s = exec j s := by
  rw [exec_eq_runOps hi, exec_eq_runOps hj, h]

theorem exec_eq_runInstrs {i : Instr} {is : List Instr} {s : State} (hi : i.asTrace.isSome = true)
    (his : ∀ j ∈ is, j.asTrace.isSome = true) (h : i.expand = is.flatMap Instr.expand) :
    exec i s = runInstrs is s := by
  rw [exec_eq_runOps hi, runInstrs_eq_runOps his, h]

theorem asTrace_toInstr (o : BoundaryOp) : o.toInstr.asTrace = some (.op o) := by cases o <;> rfl

theorem asTrace_pseudo_toInstr (p : Pseudo) : p.toInstr.asTrace = some (.pseudo p) := by cases p <;> rfl

/-! ## The symbols -/

/-- Settles O48: each symbol stands for the same list of FEEDs as the instructions it is said to be. -/
theorem symbolsAreFeeds : Obligations.SymbolsAreFeeds := by
  intro s
  refine ⟨?long, ?short, ?gap, ?sync, ?toggle, exec_eq_runInstrs rfl (by decide) rfl⟩
  case long | short | gap | sync | toggle => exact exec_eq_exec rfl rfl rfl

/-! ## The operand classes -/

/-- FEED looks at the class of its width only. -/
theorem feed_eq_of_classify_eq (c : Config) {w x : Width} (h : classify w = classify x) (s : State) :
    feed c w s = feed c x s := by
  rw [feed, feed, h]

/-- Settles O23: the ranges of the rows are those of the classes. -/
theorem operandClassesAreFeed : Obligations.OperandClassesAreFeed := by
  intro w x s
  refine ⟨fun h => ⟨classify_gap ?_, rfl⟩, fun h => ⟨?_, rfl⟩, fun h => ⟨?_, rfl⟩, fun h => ⟨classify_gap ?_, rfl⟩,
    fun h => congrArg finish (feed_eq_of_classify_eq Config.hw h s)⟩
  · exact .inl (by simpa [WellFormed] using h)
  · obtain ⟨hlo, hhi⟩ : 200 ≤ w.toNat ∧ w.toNat < 700 := by simpa [WellFormed] using h
    exact classify_short hlo hhi
  · obtain ⟨hlo, hhi⟩ : 700 ≤ w.toNat ∧ w.toNat < 1200 := by simpa [WellFormed] using h
    exact classify_long hlo hhi
  · exact .inr (by simpa [WellFormed] using h)

/-! ## REP -/

theorem expand_rep_one (body : TraceOp) : (Instr.rep 1 body).expand = body.expand := List.append_nil _

theorem expand_rep_succ (n : Nat) (body : TraceOp) :
    (Instr.rep (n + 1) body).expand = body.expand ++ (Instr.rep n body).expand := rfl

/-- Settles O50: by what the repetitions of a body and the parts of a list expand to. -/
theorem repUnrolls : Obligations.RepUnrolls := by
  intro n m o p body a b s
  refine ⟨rfl, ?_, ?_, exec_eq_exec rfl rfl (expand_rep_one _), ?_, ?_⟩
  · exact exec_eq_exec rfl (by rw [asTrace_toInstr]; rfl) ((expand_rep_one _).trans (expand_toInstr o).symm)
  · exact exec_eq_exec rfl (by rw [asTrace_pseudo_toInstr]; rfl)
      (by rw [expand_rep_one, Instr.expand, asTrace_pseudo_toInstr])
  · refine exec_eq_runInstrs rfl (by simp [Instr.asTrace]) ?_
    simp [expand_rep_one, TraceOp.expand]
  · refine exec_eq_runInstrs rfl (by simp [Instr.asTrace]) ?_
    rw [expand_rep_succ, List.flatMap_cons, List.flatMap_singleton, expand_rep_one]

/-! ## PREAMBLE, FRAMEBITS, FRAMEBYTES -/

theorem expand_preamble (n : Nat) : (Instr.preamble n).expand = (Instr.rep n (.pseudo .long)).expand := by
  show List.replicate n longOp = (List.replicate n [longOp]).flatten
  exact (List.flatten_replicate_singleton).symm

/-- One more bit is one more symbol, relative to the bit before it. -/
theorem symbols_append (previous : Bool) (bs : List Bool) (x y : Bool) :
    symbols previous (bs ++ [x, y]) = symbols previous (bs ++ [x]) ++ symbols x [y] := by
  induction bs generalizing previous with
  | nil => simp [symbols]
  | cons b bs ih => simp only [List.cons_append, symbols, ih, List.append_assoc]

theorem frameBitsOps_append (bs : List Bool) (x y : Bool) :
    frameBitsOps (bs ++ [x, y]) = frameBitsOps (bs ++ [x]) ++ symbols x [y] := by
  cases bs with
  | nil => rfl
  | cons b bs => exact congrArg (shortOp :: ·) (symbols_append b bs x y)

/-- The symbol of a bit is SAME where it is equal to the bit before it and TOGGLE otherwise. -/
theorem symbols_one (x y : Bool) : symbols x [y] = (if y = x then Instr.same else .toggle).expand := by
  rw [symbols, symbols, List.append_nil]
  split <;> rfl

theorem expand_frameBytes (hs : List Byte) :
    (Instr.frameBytes hs).expand = (Instr.frameBits (hs.flatMap fun h =>
      [h.getLsbD 0, h.getLsbD 1, h.getLsbD 2, h.getLsbD 3, h.getLsbD 4, h.getLsbD 5, h.getLsbD 6,
        h.getLsbD 7])).expand := rfl

/-- Settles O56: by the expansions; the further bit adds its symbol at the end. -/
theorem framePseudoOperationsExpand : Obligations.FramePseudoOperationsExpand := by
  intro n bs x y hs s
  refine ⟨exec_eq_exec rfl rfl (expand_preamble n), exec_eq_exec rfl rfl rfl, fun _ => ?_,
    exec_eq_exec rfl rfl (expand_frameBytes hs)⟩
  have hsymbol : (if y = x then Instr.same else .toggle).asTrace.isSome = true := by split <;> rfl
  refine exec_eq_runInstrs rfl (by simpa [Instr.asTrace] using hsymbol) ?_
  rw [List.flatMap_cons, List.flatMap_singleton, ← symbols_one]
  exact frameBitsOps_append bs x y

end Sys2Proof.Machine
end

section
/-! The count of the preamble (`30_encoding.md` R95, `42_oregon_v3.md` R153, `10_state.md` R22). -/

namespace Sys2Proof.Machine

/-- A LONG in UNKNOWN is counted, and no frame is complete (R153, R161). -/
theorem perform_longOp_of_unknown (c : Config) {s : State} (hs : s.state = .unknown)
    (hn : s.totalBits.toNat ≠ 104) : perform c longOp s = .next (countPreamble s) := by
  have hfull : isFullFrame (countPreamble s).totalBits = false := (isFullFrame_eq_false _).mpr hn
  rw [longOp, perform, feed_unknown_long c hs classify_900, respond_fullFrameTest, hfull]
  rfl

theorem countPreamble_add (s : State) (n : Nat) :
    min ((countPreamble s).flip.toNat + n) 32 = min (s.flip.toNat + (n + 1)) 32 := by
  rw [countPreamble_flip, countLong_toNat]
  omega

/-- From a FLIP in range, `n` LONGs in UNKNOWN count on to 32 and no further (R22, R153). -/
theorem runOps_longs_of_unknown (c : Config) (n : Nat) {s : State} (hs : s.state = .unknown)
    (hn : s.totalBits.toNat ≠ 104) (hf : s.flip.toNat ≤ 32) :
    runOps c (List.replicate n longOp) s =
      .next { s with flip := BitVec.ofNat 6 (min (s.flip.toNat + n) 32) } := by
  induction n generalizing s with
  | zero =>
    rw [Nat.add_zero, Nat.min_eq_left hf, BitVec.ofNat_toNat, BitVec.setWidth_eq]
    rfl
  | succ n ih =>
    have hf' : (countPreamble s).flip.toNat ≤ 32 := by
      rw [countPreamble_flip, countLong_toNat]
      omega
    rw [List.replicate_succ, runOps, perform_longOp_of_unknown c hs hn, ← countPreamble_add]
    exact ih (s := countPreamble s) hs hn hf'

/-- Settles O49: PREAMBLE is so many LONGs, counted from 0. -/
theorem preambleCountsToThirtyTwo : Obligations.PreambleCountsToThirtyTwo := by
  intro n s hs hf hn
  have hcount := runOps_longs_of_unknown Config.hw n hs hn (by simp [hf])
  rwa [hf, BitVec.toNat_zero, Nat.zero_add] at hcount

end Sys2Proof.Machine
end

section
/-! FEED goes through the lines of the step map that STATE and the class select (`30_encoding.md` R89). Outside DONE a
line before the full-frame test is a branch of DECODE_V3 (`42_oregon_v3.md` R151, R161). -/

namespace Sys2Proof.Machine

theorem exec_feed (w : Width) (s : State) : exec (.feed w) s = finish (feed Config.hw w s) := rfl

theorem whenSelected_of_selected {selected : Bool} (h : selected = true) (effect : Except Fault State) (s : State) :
    whenSelected selected effect s = finish effect := by
  rw [whenSelected, if_pos h]

theorem whenSelected_of_unselected {selected : Bool} (h : selected = false) (effect : Except Fault State) (s : State) :
    whenSelected selected effect s = .next s := by
  rw [whenSelected, if_neg (ne_true_of_eq_false h)]

/-! ## The full-frame line after a branch -/

/-- Outside DONE the full-frame line is the answer to the full-frame test (R161). -/
theorem exec_stepFullFrame {p : PulseClass} {s : State} (hp : p ≠ .gap) (hs : s.state ≠ .done) :
    exec (.stepFullFrame p) s = finish (respond Config.hw (.ok (fullFrameTest s))) := by
  have hd := (isDone_eq_false s).mpr hs
  show whenSelected _ _ s = _
  rw [respond_fullFrameTest]
  cases hfull : isFullFrame s.totalBits with
  | true => rw [whenSelected_of_selected (by simp [hp, hd])]; rfl
  | false => rw [whenSelected_of_unselected (by simp)]; rfl

/-- A line that does not end in DONE and then the full-frame line are its branch and then the full-frame test. -/
theorem runInstrs_line_fullFrame {i : Instr} {p : PulseClass} {r : Except Fault State} {s : State} (hp : p ≠ .gap)
    (hi : exec i s = finish r) (hr : ∀ t, r = .ok t → t.state ≠ .done) :
    runInstrs [i, .stepFullFrame p] s = finish (respond Config.hw (thenFullFrameTest r)) := by
  rw [runInstrs, hi]
  cases r with
  | error f => rfl
  | ok t =>
    rw [finish_ok]
    exact (runInstrs_singleton _ t).trans (exec_stepFullFrame hp (hr t rfl))

/-- Recording leaves the STATE it finds, or the reset state. -/
theorem recman_state {c : Config} {v : Bool} {s t : State} {r : RecResult} (h : recman c v s = .ok (r, t)) :
    t.state = s.state ∨ t.state = .unknown := by
  obtain ⟨b, -, ⟨-, e⟩ | ⟨-, e⟩⟩ := recbit_cases (recman_eq c v s ▸ h) <;> cases e
  · exact .inl rfl
  · exact .inr rfl

theorem recordThen_ok_live {c : Config} {v : Bool} {s t : State} (hs : s.state ≠ .done)
    (h : recordThen c v .ok s = .ok t) : t.state ≠ .done := by
  obtain ⟨u, -, rfl⟩ | hu := recordThen_cases h
  · simp
  · obtain he | he := recman_state hu
    · rwa [he]
    · simp [he]

theorem recordToggle_live {c : Config} {s t : State} (hs : s.state ≠ .done) (h : recordToggle c s = .ok t) :
    t.state ≠ .done := by
  obtain ⟨r, hr⟩ := recordToggle_cases h
  obtain he | he := recman_state hr
  · rwa [he]
  · simp [he]

/-! ## FEED, class by class -/

theorem exec_feed_done (w : Width) (p : PulseClass) {s : State} (hs : s.state = .done) :
    exec (.feed w) s = runInstrs [.stepDoneAny p] s := by
  have hsel : isDone s = true := (isDone_iff s).mpr hs
  rw [exec_feed, feed_done _ w hs, runInstrs_singleton]
  exact (whenSelected_of_selected hsel _ s).symm

theorem exec_feed_gap {w : Width} {s : State} (hw : classify w = .gap) (hs : s.state ≠ .done) :
    exec (.feed w) s = runInstrs (if inShortBand s.totalBits then [.stepGapComplete] else [.stepGapInvalid]) s := by
  have hd := (isDone_eq_false s).mpr hs
  rw [exec_feed]
  cases hb : inShortBand s.totalBits with
  | true =>
    rw [feed_gap_complete _ hs hw hb, if_pos rfl, runInstrs_singleton]
    exact (whenSelected_of_selected (by simp [hd, hb]) _ s).symm
  | false =>
    rw [feed_gap_invalid _ hs hw hb, if_neg Bool.false_ne_true, runInstrs_singleton]
    exact (whenSelected_of_selected (by simp [hd, hb]) (.ok (takeInvalid .gapCount s)) s).symm

theorem exec_feed_unknown_long {w : Width} {s : State} (hw : classify w = .long) (hs : s.state = .unknown) :
    exec (.feed w) s = runInstrs [.stepUnknownLong, .stepFullFrame .long] s := by
  have hline : exec .stepUnknownLong s = finish (.ok (countPreamble s)) :=
    whenSelected_of_selected (by simp [hs]) _ s
  rw [exec_feed, feed_unknown_long _ hs hw, runInstrs_line_fullFrame (by decide) hline]
  · rfl
  · intro t ht
    cases ht
    simp [hs]

theorem exec_feed_unknown_short {w : Width} {s : State} (hw : classify w = .short) (hs : s.state = .unknown) :
    exec (.feed w) s = runInstrs (if preambleSeen s.flip then [.stepUnknownShortSync, .stepFullFrame .short]
      else [.stepUnknownShortEarly]) s := by
  rw [exec_feed]
  cases hf : preambleSeen s.flip with
  | true =>
    have hline : exec .stepUnknownShortSync s = finish (preambleFound Config.hw s) :=
      whenSelected_of_selected (by simp [hs, hf]) _ s
    rw [feed_sync _ hs hw hf, if_pos rfl, runInstrs_line_fullFrame (by decide) hline]
    exact fun t => recordThen_ok_live (by simp [hs])
  | false =>
    rw [feed_early _ hs hw hf, if_neg Bool.false_ne_true, runInstrs_singleton]
    exact (whenSelected_of_selected (by simp [hs, hf]) (.ok (takeInvalid .earlyShort s)) s).symm

theorem exec_feed_ok_short {w : Width} {s : State} (hw : classify w = .short) (hs : s.state = .ok) :
    exec (.feed w) s = runInstrs [.stepOkShort, .stepFullFrame .short] s := by
  have hline : exec .stepOkShort s = finish (.ok (firstHalf s)) := whenSelected_of_selected (by simp [hs]) _ s
  rw [exec_feed, feed_ok_short _ hs hw, runInstrs_line_fullFrame (by decide) hline]
  · rfl
  · intro t ht
    cases ht
    simp

theorem exec_feed_ok_long {w : Width} {s : State} (hw : classify w = .long) (hs : s.state = .ok) :
    exec (.feed w) s = runInstrs [.stepOkLong, .stepFullFrame .long] s := by
  have hline : exec .stepOkLong s = finish (recordToggle Config.hw s) := whenSelected_of_selected (by simp [hs]) _ s
  rw [exec_feed, feed_ok_long _ hs hw, runInstrs_line_fullFrame (by decide) hline]
  exact fun t => recordToggle_live (by simp [hs])

theorem exec_feed_t0_short {w : Width} {s : State} (hw : classify w = .short) (hs : s.state = .t0) :
    exec (.feed w) s = runInstrs [.stepT0Short, .stepFullFrame .short] s := by
  have hline : exec .stepT0Short s = finish (secondHalf Config.hw s) := whenSelected_of_selected (by simp [hs]) _ s
  rw [exec_feed, feed_t0_short _ hs hw, runInstrs_line_fullFrame (by decide) hline]
  exact fun t => recordThen_ok_live (by simp [hs])

theorem exec_feed_t0_long {w : Width} {s : State} (hw : classify w = .long) (hs : s.state = .t0) :
    exec (.feed w) s = runInstrs [.stepT0Long] s := by
  rw [exec_feed, feed_t0_long _ hs hw, runInstrs_singleton]
  exact (whenSelected_of_selected (by simp [hs]) (.ok (takeInvalid .longInT0 s)) s).symm

theorem exec_feed_reserved {w : Width} {p : PulseClass} {s : State} (hw : classify w = p) (hp : p ≠ .gap)
    (hs : isReserved s.state = true) : exec (.feed w) s = runInstrs [.stepReserved p] s := by
  rw [exec_feed, feed_reserved _ hs (hw ▸ hp), runInstrs_singleton]
  exact (whenSelected_of_selected (by simp [hs, hp]) (.ok (takeInvalid .reservedState s)) s).symm

/-! ## The map -/

theorem mapLines_done (p : PulseClass) {s : State} (hs : s.state = .done) : mapLines p s = [.stepDoneAny p] := by
  simp only [mapLines, hs]

theorem mapLines_gap {s : State} (hs : s.state ≠ .done) :
    mapLines .gap s = if inShortBand s.totalBits then [.stepGapComplete] else [.stepGapInvalid] := by
  cases h : s.state with
  | done => exact absurd h hs
  | unknown | t0 | t1 | t2 | t3 | ok | code7 => simp only [mapLines, h]

/-- Settles O24: by the class and STATE, each cell of the map having its lemma. -/
theorem feedIsTheStepMap : Obligations.FeedIsTheStepMap := by
  intro w s
  by_cases hd : s.state = .done
  · rw [mapLines_done _ hd]
    exact exec_feed_done w _ hd
  cases hw : classify w with
  | gap =>
    rw [mapLines_gap hd]
    exact exec_feed_gap hw hd
  | short =>
    cases hs : s.state with
    | done => exact absurd hs hd
    | unknown => simp only [mapLines, hs]; exact exec_feed_unknown_short hw hs
    | ok => simp only [mapLines, hs]; exact exec_feed_ok_short hw hs
    | t0 => simp only [mapLines, hs]; exact exec_feed_t0_short hw hs
    | t1 | t2 | t3 | code7 =>
      simp only [mapLines, hs]
      exact exec_feed_reserved hw (by decide) (by rw [hs]; rfl)
  | long =>
    cases hs : s.state with
    | done => exact absurd hs hd
    | unknown => simp only [mapLines, hs]; exact exec_feed_unknown_long hw hs
    | ok => simp only [mapLines, hs]; exact exec_feed_ok_long hw hs
    | t0 => simp only [mapLines, hs]; exact exec_feed_t0_long hw hs
    | t1 | t2 | t3 | code7 =>
      simp only [mapLines, hs]
      exact exec_feed_reserved hw (by decide) (by rw [hs]; rfl)

end Sys2Proof.Machine
end

section
/-! The bits that symbols record (`30_encoding.md` R95, `41_bit_accumulator.md` R137): after the preamble, FRAMEBITS
records the bits given, each read back at its number (`20_memory.md` R52). -/

namespace Sys2Proof.Machine

/-! ## Bits recorded one after the other -/

/-- STATE once a bit has been recorded: OK, or DONE when it was the 104th (R161). -/
def stateAtCount (n : Nat) : DecoderState := if n = 104 then .done else .ok

/-- From `s` to `t` the bits given have been recorded, in order, above those of `s`; nothing outside the block changed. -/
structure BitsRecorded (c : Config) (bs : List Bool) (s t : State) : Prop where
  inv     : Inv c t
  state   : t.state = stateAtCount t.totalBits.toNat
  total   : t.totalBits.toNat = s.totalBits.toNat + bs.length
  bit     : ∀ n, n < bs.length → recordedBit t (s.totalBits.toNat + n) = bs[n]?
  earlier : ∀ n, n < s.totalBits.toNat → recordedBit t n = recordedBit s n
  outside : SameOutside s t

theorem BitsRecorded.nil {c : Config} {s : State} (h : Inv c s) (hs : s.state = stateAtCount s.totalBits.toNat) :
    BitsRecorded c [] s s :=
  ⟨h, hs, rfl, fun _ hn => absurd hn (Nat.not_lt_zero _), fun _ _ => rfl, ⟨rfl, rfl, rfl⟩⟩

theorem BitsRecorded.append {c : Config} {as bs : List Bool} {s t u : State} (h : BitsRecorded c as s t)
    (h' : BitsRecorded c bs t u) : BitsRecorded c (as ++ bs) s u := by
  have htotal := h.total
  have htotal' := h'.total
  refine ⟨h'.inv, h'.state, ?_, fun n hn => ?_, fun n hn => ?_, ?_⟩
  · rw [List.length_append]
    omega
  · rw [List.length_append] at hn
    by_cases hlow : n < as.length
    · rw [h'.earlier _ (by omega), h.bit n hlow, List.getElem?_append_left hlow]
    · have hbit := h'.bit (n - as.length) (by omega)
      rw [List.getElem?_append_right (by omega), ← hbit]
      congr 1
      omega
  · rw [h'.earlier n (by omega), h.earlier n hn]
  · obtain ⟨hpend, hobs, hdraw⟩ := h.outside
    obtain ⟨hpend', hobs', hdraw'⟩ := h'.outside
    exact ⟨hpend'.trans hpend, hobs'.trans hobs, hdraw'.trans hdraw⟩

/-- Storing a flip flag records it. -/
theorem bitsRecorded_storeFlip {c : Config} {s : State} {f : BitVec 6} (h : Inv c s)
    (hg : (PulseEffect.store f).Guard s) : BitsRecorded c [flipFlag f] s (storeFlip f s) := by
  have ⟨hn, _, _⟩ := hg
  refine ⟨inv_storeFlip h hg, ?_, totalBits_succ hn, fun n hlt => ?_, fun n hlt => ?_, ⟨rfl, rfl, rfl⟩⟩
  · rw [storeFlip_state, storeFlip_totalBits, stateAtCount]
    simp only [isFullFrame_iff]
  · obtain rfl : n = 0 := by simpa using hlt
    rw [Nat.add_zero, recordedBit_storeFlip h hn f le_rfl, if_pos rfl]
    rfl
  · rw [recordedBit_storeFlip h hn f (by omega), if_neg (by omega)]

/-! ## The symbols -/

theorem perform_shortOp {s : State} (h : Inv Config.hw s) :
    perform Config.hw shortOp s = .next ((effectOf .short s).apply s) := by
  rw [shortOp, perform, feed_eq _ h, classify_400, finish_ok]

theorem perform_longOp {s : State} (h : Inv Config.hw s) :
    perform Config.hw longOp s = .next ((effectOf .long s).apply s) := by
  rw [longOp, perform, feed_eq _ h, classify_900, finish_ok]

/-- In OK the flip flag is the bit recorded last (R137). -/
theorem flipFlag_of_ok {c : Config} {s : State} {b : Bool} (h : Inv c s) (hs : s.state = .ok)
    (hb : recordedBit s (s.totalBits.toNat - 1) = some b) : flipFlag s.flip = b := by
  obtain ⟨-, -, -, -, hlast⟩ := h.midAttempt (.inl hs)
  rw [LastBitIsFlip, hb] at hlast
  exact (Option.some.inj hlast).symm

theorem flipFlag_toggleFlip_true (f : BitVec 6) : flipFlag (toggleFlip true f) = !flipFlag f := by
  rw [flipFlag_toggleFlip, Bool.true_xor]
  rfl

/-- TOGGLE in OK. -/
theorem toggle_records {s : State} {b : Bool} (h : Inv Config.hw s) (hs : s.state = .ok)
    (hb : recordedBit s (s.totalBits.toNat - 1) = some b) :
    ∃ t, runOps Config.hw [longOp] s = .next t ∧ BitsRecorded Config.hw [!b] s t := by
  have hrec := bitsRecorded_storeFlip h (guard_store_of_midAttempt true (h.midAttempt (.inl hs)))
  rw [flipFlag_toggleFlip_true, flipFlag_of_ok h hs hb] at hrec
  refine ⟨_, ?_, hrec⟩
  rw [runOps_singleton, perform_longOp h, effectOf_ok_long hs]
  rfl

/-- SAME in OK: the first SHORT only leaves OK for T0, the second records. -/
theorem same_records {s : State} {b : Bool} (h : Inv Config.hw s) (hs : s.state = .ok)
    (hb : recordedBit s (s.totalBits.toNat - 1) = some b) :
    ∃ t, runOps Config.hw [shortOp, shortOp] s = .next t ∧ BitsRecorded Config.hw [b] s t := by
  have h' : Inv Config.hw (firstHalf s) := inv_firstHalf h hs
  have hrec := bitsRecorded_storeFlip h' (guard_store_of_midAttempt false (h'.midAttempt (.inr rfl)))
  rw [toggleFlip_false, firstHalf_flip, flipFlag_of_ok h hs hb] at hrec
  refine ⟨storeFlip s.flip (firstHalf s), ?_,
    ⟨hrec.inv, hrec.state, hrec.total, hrec.bit, hrec.earlier, hrec.outside⟩⟩
  have hfirst : perform Config.hw shortOp s = .next (firstHalf s) := by
    rw [perform_shortOp h, effectOf_ok_short hs]
    rfl
  rw [runOps, hfirst]
  show runOps Config.hw [shortOp] (firstHalf s) = _
  rw [runOps_singleton, perform_shortOp h', effectOf_t0_short rfl, toggleFlip_false]
  rfl

/-- One bit recorded: it stands at the old count. -/
theorem BitsRecorded.one {c : Config} {b : Bool} {s t : State} (h : BitsRecorded c [b] s t)
    (hn : s.totalBits.toNat ≤ 103) :
    t.totalBits = s.totalBits + 1#8 ∧ recordedBit t s.totalBits.toNat = some b ∧
      ∀ n, n < s.totalBits.toNat → recordedBit t n = recordedBit s n :=
  ⟨BitVec.eq_of_toNat_eq (h.total.trans (totalBits_succ hn).symm), h.bit 0 Nat.one_pos, h.earlier⟩

/-- Settles O51: TOGGLE stands for one LONG and SAME for two SHORTs. -/
theorem toggleComplementsSameCopies : Obligations.ToggleComplementsSameCopies := by
  intro s b h hs hb
  have hn := h.totalBits_le_of_live (by simp [hs])
  obtain ⟨t, ht, htoggle⟩ := toggle_records h hs hb
  obtain ⟨u, hu, hsame⟩ := same_records h hs hb
  exact ⟨⟨t, ht, htoggle.one hn⟩, ⟨u, hu, hsame.one hn⟩⟩

/-- The symbol of a bit records the bit. -/
theorem symbol_records {s : State} {previous : Bool} (b : Bool) (h : Inv Config.hw s) (hs : s.state = .ok)
    (hb : recordedBit s (s.totalBits.toNat - 1) = some previous) :
    ∃ t, runOps Config.hw (if b = previous then [shortOp, shortOp] else [longOp]) s = .next t ∧
      BitsRecorded Config.hw [b] s t := by
  split
  case isTrue heq => exact heq ▸ same_records h hs hb
  case isFalse hne => exact (Bool.eq_not_of_ne hne) ▸ toggle_records h hs hb

/-- SYNC after the preamble records the 0 that an attempt begins with. -/
theorem sync_records {s : State} (h : Inv Config.hw s) (hs : s.state = .unknown) (hf : 32 ≤ s.flip.toNat) :
    ∃ t, perform Config.hw shortOp s = .next t ∧ BitsRecorded Config.hw [false] s t := by
  have heff : effectOf .short s = .store 0#6 := by
    rw [effectOf_unknown_short hs, if_pos ((preambleSeen_iff _).mpr hf)]
  have hguard := guard_effectOf h .short
  rw [heff] at hguard
  refine ⟨_, ?_, bitsRecorded_storeFlip h hguard⟩
  rw [perform_shortOp h, heff]
  rfl

/-! ## A list of bits -/

/-- The symbols of a list of bits record the list, as long as the count stays within 104. -/
theorem symbols_record (bs : List Bool) {s : State} {previous : Bool} (h : Inv Config.hw s)
    (hs : s.state = stateAtCount s.totalBits.toNat)
    (hb : recordedBit s (s.totalBits.toNat - 1) = some previous) (hlen : s.totalBits.toNat + bs.length ≤ 104) :
    ∃ t, runOps Config.hw (symbols previous bs) s = .next t ∧ BitsRecorded Config.hw bs s t := by
  induction bs generalizing s previous with
  | nil => exact ⟨s, rfl, .nil h hs⟩
  | cons b bs ih =>
    rw [List.length_cons] at hlen
    have hok : s.state = .ok := by rw [hs, stateAtCount, if_neg (by omega)]
    obtain ⟨u, hu, hrec⟩ := symbol_records b h hok hb
    have hcount : u.totalBits.toNat = s.totalBits.toNat + 1 := hrec.total
    have hlast : recordedBit u (u.totalBits.toNat - 1) = some b := by
      rw [hcount, Nat.add_sub_cancel]
      exact hrec.bit 0 Nat.one_pos
    obtain ⟨t, ht, hrec'⟩ := ih hrec.inv hrec.state hlast (by omega)
    exact ⟨t, by rw [symbols, runOps_append _ _ _ hu, ht], hrec.append hrec'⟩

/-- FRAMEBITS after the preamble: SYNC records the first bit, the symbols the others. -/
theorem frameBits_records {bs : List Bool} {s : State} (h : Inv Config.hw s) (hs : s.state = .unknown)
    (hf : 32 ≤ s.flip.toNat) (hlen : bs.length < 104) :
    ∃ t, exec (.frameBits (false :: bs)) s = .next t ∧ BitsRecorded Config.hw (false :: bs) s t := by
  obtain ⟨hzero, -, -⟩ := h.unknown hs
  obtain ⟨u, hu, hrec⟩ := sync_records h hs hf
  have hcount : u.totalBits.toNat = 1 := by rw [hrec.total, hzero]; rfl
  have hfirst : recordedBit u (u.totalBits.toNat - 1) = some false := by
    have hbit := hrec.bit 0 Nat.one_pos
    rw [hzero] at hbit
    rw [hcount]
    exact hbit
  obtain ⟨t, ht, hrec'⟩ := symbols_record bs hrec.inv hrec.state hfirst (by omega)
  refine ⟨t, ?_, hrec.append hrec'⟩
  show runOps Config.hw (shortOp :: symbols false bs) s = _
  rw [runOps, hu]
  exact ht

theorem frameBitsOk_iff (bs : List Bool) : frameBitsOk bs = true ↔ ∃ rest, bs = false :: rest := by
  cases bs with
  | nil => simp [frameBitsOk]
  | cons b bs => simp [frameBitsOk]

/-- Settles O52: in UNKNOWN the count is 0, so the bits stand at their own numbers. -/
theorem frameBitsRecordsTheBits : Obligations.FrameBitsRecordsTheBits := by
  intro bs s h hs hf hwf hlen
  obtain ⟨rest, rfl⟩ := (frameBitsOk_iff bs).mp hwf
  obtain ⟨hzero, -, -⟩ := h.unknown hs
  have hzero' : s.totalBits.toNat = 0 := by rw [hzero]; rfl
  obtain ⟨t, ht, hrec⟩ := frameBits_records h hs hf hlen
  have htotal := hrec.total
  rw [hzero', Nat.zero_add] at htotal
  refine ⟨t, ht, ?_, htotal, fun n hn => ?_, hrec.outside⟩
  · rw [hrec.state, htotal, stateAtCount]
  · have hbit := hrec.bit n hn
    rwa [hzero', Nat.zero_add] at hbit

end Sys2Proof.Machine
end

section
/-! The outputs of the block (`30_encoding.md` R84, R85, R88). -/

namespace Sys2Proof.Machine

theorem rdData_of_read {s : State} {a : RdAddr} {b : Byte} (h : Memory.read s.data a.toNat = some b) :
    rdData s a = b := by
  rw [rdData, h]

/-- Settles O21: each output shows its register; the codes are read off the list. -/
theorem outputsShowState : Obligations.OutputsShowState :=
  ⟨fun s _ => ⟨isDone_iff s, rfl, fun _ => rdData_of_read, rfl, rfl, rfl⟩, by decide⟩

end Sys2Proof.Machine
end

section
/-! The operations of the boundary other than a live FEED: the resets, IDLE, the consumer's reads, and FEED in DONE
(`40_engine_ops.md` R111 to R118). -/

namespace Sys2Proof.Machine

/-! ## The resets -/

/-- Settles O14: `do_reset` and RESET are one function of the state, which does not write DATA. -/
theorem resetClearsRegistersKeepsData : Obligations.ResetClearsRegistersKeepsData := fun s =>
  ⟨rfl, doReset s, rfl, registersReset_doReset s, doReset_data s, rfl, rfl, rfl⟩

theorem registersReset_hwreset (c : Config) (s : State) : RegistersReset (hwreset c s) := registersReset_doReset s

/-- Settles O16. -/
theorem hwresetClearsRegisters : Obligations.HwresetClearsRegisters := fun s =>
  ⟨hwreset Config.hw s, rfl, registersReset_hwreset Config.hw s, Memory.wf_powerOnData Config.hw s.draws, rfl, rfl⟩

/-! ## IDLE and STEP.DONE_ANY -/

theorem runOps_idles (c : Config) (n : Nat) (s : State) : runOps c (List.replicate n .idle) s = .next s := by
  induction n with
  | zero => rfl
  | succ n ih =>
    rw [List.replicate_succ, runOps, perform]
    exact ih

theorem expand_rep_op (n : Nat) (o : BoundaryOp) : (Instr.rep n (.op o)).expand = List.replicate n o :=
  List.flatten_replicate_singleton

/-- A line whose effect is to change nothing changes nothing, selected or not. -/
theorem whenSelected_nothing (selected : Bool) (s : State) : whenSelected selected (.ok s) s = .next s := by
  cases selected with
  | true => exact whenSelected_of_selected rfl _ s
  | false => exact whenSelected_of_unselected rfl _ s

/-- Settles O17: by induction over the IDLE clocks, and by whether the line is selected. -/
theorem idleChangesNothing : Obligations.IdleChangesNothing := by
  intro s n p
  refine ⟨rfl, ?_, whenSelected_nothing (isDone s) s⟩
  rw [exec_eq_runOps rfl, expand_rep_op, runOps_idles]

/-! ## The consumer's reads -/

theorem sameBlock_readDone (s : State) : SameBlock s (readDone s) := .refl s

theorem sameBlock_readFrame (r : FrameRead) (s : State) : SameBlock s (readFrame r s) := .refl s

/-- Settles O18: the answer is the done flag. -/
theorem isdoneReadsDoneFlag : Obligations.IsdoneReadsDoneFlag := fun s =>
  ⟨readDone s, rfl, sameBlock_readDone s, rfl, rfl, isDone s, readDone_observed s, isDone_iff s⟩

/-- Settles O20. -/
theorem getframeChangesNothing : Obligations.GetframeChangesNothing := fun s r =>
  ⟨readFrame r s, frameObservation r s, rfl, sameBlock_readFrame r s, rfl, readFrame_observed r s⟩

theorem frameCount_of_done {s : State} (hs : s.state = .done) : frameCount s = s.pos := by
  rw [frameCount, if_pos ((isDone_iff s).mpr hs)]

/-- In DONE an access below the count shows the byte of the buffer (R57). -/
theorem frameByte_of_done {s : State} {a : RdAddr} {b : Byte} (hs : s.state = .done) (ha : a.toNat < s.pos.toNat)
    (hb : Memory.read s.data a.toNat = some b) : frameByte s a = b := by
  have hsel : (isDone s && decide (a.toNat < s.pos.toNat)) = true := by simp [isDone, hs, ha]
  rw [frameByte, if_pos hsel, rdData_of_read hb]

theorem frameBytesOf_length_of_done {s : State} (hs : s.state = .done) : (frameBytesOf s).length = s.pos.toNat := by
  simp [frameBytesOf, frameCount_of_done hs]

/-- In DONE the bytes read are those of the buffer below POS, each of which a whole buffer has (R112). -/
theorem frameBytesOf_getElem?_of_done {c : Config} {s : State} {a : Nat} (h : BufferOk c s) (hs : s.state = .done)
    (ha : a < s.pos.toNat) : (frameBytesOf s)[a]? = Memory.read s.data a := by
  obtain ⟨hwf, hpos⟩ := h
  obtain ⟨b, hb⟩ := Memory.read_of_wf hwf (ha.trans hpos)
  have haddr : (BitVec.ofNat 5 a).toNat = a := Nat.mod_eq_of_lt (ha.trans s.pos.isLt)
  have hbyte : frameByte s (BitVec.ofNat 5 a) = b :=
    frameByte_of_done hs (by rwa [haddr]) (by rwa [haddr])
  rw [frameBytesOf, frameCount_of_done hs, List.getElem?_map, List.getElem?_range ha, Option.map_some, hbyte, hb]

/-- Settles O19: both forms read the buffer through the port, below the count. -/
theorem getframeReturnsFrame : Obligations.GetframeReturnsFrame := by
  intro s h hs
  have hcount := frameCount_of_done hs
  constructor
  · refine ⟨readFrame .whole s, frameBytesOf s, rfl, sameBlock_readFrame _ s, rfl, ?_, frameBytesOf_length_of_done hs,
      fun a ha => frameBytesOf_getElem?_of_done h hs ha⟩
    rw [readFrame_observed, frameObservation, hcount]
  · intro a b ha hb
    refine ⟨readFrame (.byteAt a) s, rfl, sameBlock_readFrame _ s, rfl, ?_⟩
    rw [readFrame_observed, frameObservation, hcount, frameByte_of_done hs ha hb]

/-! ## FEED in DONE -/

/-- Settles O26: FEED looks at STATE first, and its result is the done flag. -/
theorem feedInDoneIsNoop : Obligations.FeedInDoneIsNoop := by
  intro w s hs
  refine ⟨?_, (isDone_iff s).mpr hs⟩
  rw [exec_feed, feed_done _ w hs, finish_ok]

end Sys2Proof.Machine
end

section
/-! Completion in every state outside DONE, forced and overflowing ones among them (`40_engine_ops.md` R119,
`41_bit_accumulator.md` R134, R136). -/

namespace Sys2Proof.Machine

theorem complete_partial {c : Config} {s : State} {b : Byte} (h0 : s.bits ≠ 0#3)
    (hb : Memory.read s.data s.pos.toNat = some b) (hp : s.pos.toNat + 1 ≠ c.cap) :
    complete c s = .ok { padded b s with state := .done } := by
  rw [complete, pad_room h0 hb hp]

/-- STATE is not written after the overflow (log entry 8). -/
theorem complete_overflow {c : Config} {s : State} {b : Byte} (h0 : s.bits ≠ 0#3)
    (hb : Memory.read s.data s.pos.toNat = some b) (hp : s.pos.toNat + 1 = c.cap) :
    complete c s = .ok (padOverflowed b s) := by
  rw [complete, pad_overflow h0 hb hp]

theorem partialFilled_padded {s : State} {b : Byte} (d : DecoderState)
    (hb : Memory.read s.data s.pos.toNat = some b) : PartialFilled b s { padded b s with state := d } :=
  ⟨Memory.read_write_same _ hb, rfl, rfl, rfl, fun _ hk => Memory.read_write_other _ _ hk, rfl, rfl, rfl⟩

theorem partialOverflowed_padOverflowed {s : State} {b : Byte} (hb : Memory.read s.data s.pos.toNat = some b) :
    PartialOverflowed b s (padOverflowed b s) :=
  ⟨Memory.read_write_same _ hb, registersReset_doReset _, fun _ hk => Memory.read_write_other _ _ hk, rfl, rfl, rfl⟩

/-- Both gaps in the band, the line and the FEED, complete (R152). -/
theorem exec_gap_eq_complete {i : Instr} {s : State} (hs : s.state ≠ .done)
    (hn : 40 ≤ s.totalBits.toNat ∧ s.totalBits.toNat ≤ 103)
    (hi : i = .stepGapComplete ∨ ∃ w, i = .feed w ∧ classify w = .gap) :
    exec i s = finish (complete Config.hw s) := by
  have hband := (inShortBand_iff s.totalBits).mpr hn
  obtain rfl | ⟨w, rfl, hw⟩ := hi
  · exact whenSelected_of_selected (by simp [(isDone_eq_false s).mpr hs, hband]) _ s
  · rw [exec_feed, feed_gap_complete _ hs hw hband]

/-- The full-frame line completes at 104 bits (R161). -/
theorem exec_stepFullFrame_eq_complete {p : PulseClass} {s : State} (hs : s.state ≠ .done)
    (hn : s.totalBits.toNat = 104) (hp : p ≠ .gap) : exec (.stepFullFrame p) s = finish (complete Config.hw s) := by
  rw [exec_stepFullFrame hp hs, respond_fullFrameTest, if_pos ((isFullFrame_iff _).mpr hn)]

/-- Settles O35: each of the three instructions is the completion, which by BITS and POS has one of three outcomes. -/
theorem completionPadsThenDone : Obligations.CompletionPadsThenDone := by
  intro i s hs hi
  have hexec : exec i s = finish (complete Config.hw s) := by
    obtain ⟨hlo, hhi, hi⟩ | ⟨hn, p, hp, rfl⟩ := hi
    · exact exec_gap_eq_complete hs ⟨hlo, hhi⟩ hi
    · exact exec_stepFullFrame_eq_complete hs hn hp
  rw [hexec]
  refine ⟨fun h0 => ?_, fun b h0 hb => ⟨fun hp => ?_, fun hp => ?_⟩⟩
  · rw [complete_aligned _ h0, finish_ok]
  · rw [complete_partial h0 hb hp, finish_ok]
    exact ⟨_, rfl, rfl, rfl, partialFilled_padded .done hb⟩
  · rw [complete_overflow h0 hb hp, finish_ok]
    exact ⟨_, rfl, partialOverflowed_padOverflowed hb⟩

end Sys2Proof.Machine
end

section
/-! STATE after a pulse is what the transition table says (`42_oregon_v3.md` R162), and FEED's result is whether the table
says DONE (`40_engine_ops.md` R117). -/

namespace Sys2Proof.Machine

/-! ## The table -/

theorem stateAfterFeed_done (p : PulseClass) {s : State} (hs : s.state = .done) : stateAfterFeed p s = .done := by
  cases p <;> simp [stateAfterFeed, hs]

theorem stateAfterFeed_gap {s : State} (hs : s.state ≠ .done) :
    stateAfterFeed .gap s = if 40 ≤ s.totalBits.toNat ∧ s.totalBits.toNat ≤ 103 then .done else .unknown := by
  simp [stateAfterFeed]

theorem stateAfterFeed_unknown_short {s : State} (hs : s.state = .unknown) :
    stateAfterFeed .short s = if 32 ≤ s.flip.toNat then .ok else .unknown := by
  simp [stateAfterFeed, hs]

/-- The cells of the table that say DONE outside DONE. -/
theorem stateAfterFeed_eq_done_iff {p : PulseClass} {s : State} (hs : s.state ≠ .done) :
    stateAfterFeed p s = .done ↔
      (p = .gap ∧ 40 ≤ s.totalBits.toNat ∧ s.totalBits.toNat ≤ 103) ∨
      (s.totalBits.toNat = 103 ∧ ((s.state = .ok ∧ p = .long) ∨ (s.state = .t0 ∧ p = .short))) := by
  cases p with
  | gap => simp [stateAfterFeed_gap hs]
  | long => cases hst : s.state <;> simp [stateAfterFeed, hst] at hs ⊢
  | short => cases hst : s.state <;> simp [stateAfterFeed, hst, ite_eq_iff] at hs ⊢

/-! ## The effect of a pulse agrees with the table -/

/-- A recorded bit ends the frame exactly when it is the 104th (R161). -/
theorem storeFlip_state_eq {s : State} (f : BitVec 6) (hn : s.totalBits.toNat ≤ 103) :
    (storeFlip f s).state = if s.totalBits.toNat = 103 then .done else .ok := by
  have hfull : isFullFrame (s.totalBits + 1#8) = true ↔ s.totalBits.toNat = 103 := by
    rw [isFullFrame_iff, totalBits_succ hn]
    omega
  simp only [storeFlip_state, hfull]

theorem effectOf_gap_state {s : State} (hs : s.state ≠ .done) :
    ((effectOf .gap s).apply s).state = stateAfterFeed .gap s := by
  rw [effectOf_gap hs, stateAfterFeed_gap hs]
  simp only [inShortBand_iff]
  split <;> rfl

/-- The first bit of an attempt is not its 104th. -/
theorem effectOf_unknown_short_state {c : Config} {s : State} (h : Inv c s) (hs : s.state = .unknown) :
    ((effectOf .short s).apply s).state = stateAfterFeed .short s := by
  obtain ⟨hn, -, -⟩ := h.unknown hs
  rw [effectOf_unknown_short hs, stateAfterFeed_unknown_short hs]
  simp only [preambleSeen_iff]
  split
  · show (storeFlip 0#6 s).state = .ok
    rw [storeFlip_state_eq _ (by simp [hn]), if_neg (by simp [hn])]
  · rfl

/-- Under the invariant a pulse leaves STATE at the cell of the table (R162). -/
theorem effectOf_apply_state {c : Config} {s : State} (h : Inv c s) (p : PulseClass) :
    ((effectOf p s).apply s).state = stateAfterFeed p s := by
  by_cases hd : s.state = .done
  · rw [effectOf_done p hd, stateAfterFeed_done p hd]
    exact hd
  have hn := h.totalBits_le_of_live hd
  cases p with
  | gap => exact effectOf_gap_state hd
  | long =>
    obtain hs | hs | hs | hs := h.state_cases
    · simp [effectOf_unknown_long hs, PulseEffect.apply, stateAfterFeed, hs]
    · simp [effectOf_ok_long hs, PulseEffect.apply, storeFlip_state_eq _ hn, stateAfterFeed, hs]
    · simp [effectOf_t0_long hs, PulseEffect.apply, stateAfterFeed, hs]
    · exact absurd hs hd
  | short =>
    obtain hs | hs | hs | hs := h.state_cases
    · exact effectOf_unknown_short_state h hs
    · simp [effectOf_ok_short hs, PulseEffect.apply, stateAfterFeed, hs]
    · simp [effectOf_t0_short hs, PulseEffect.apply, storeFlip_state_eq _ hn, stateAfterFeed, hs]
    · exact absurd hs hd

/-- Settles O37: the result is whether the table says DONE, which outside DONE it does in three cells. -/
theorem feedResultTrueIffComplete : Obligations.FeedResultTrueIffComplete := by
  intro w s t h hexec
  have hfeed : feed Config.hw w s = .ok t := perform_feed_eq_next hexec
  rw [feed_eq w h] at hfeed
  cases hfeed
  rw [feedResult, isDone_iff, effectOf_apply_state h]
  by_cases hd : s.state = .done
  · simp [stateAfterFeed_done _ hd, hd]
  · rw [stateAfterFeed_eq_done_iff hd]
    simp [hd]

end Sys2Proof.Machine
end

section
/-! The micro-operations of the bit accumulator issued by themselves: RECBIT, RECMAN and PAD, and the byte a run of RECBIT
fills (`41_bit_accumulator.md` R130 to R136). -/

namespace Sys2Proof.Machine

theorem exec_pad (s : State) : exec .pad s = finish (stateOf (pad Config.hw s)) := rfl

/-- The returned value is dropped (log entry 13). -/
@[simp] theorem stateOf_ok (r : RecResult) (s : State) : stateOf (.ok (r, s)) = .ok s := rfl

/-- Room and overflow are the two sides of one boundary (R136). -/
theorem not_hasRoom_iff {c : Config} {s : State} : ¬ HasRoom c s ↔ overflows c s := not_not

/-! ## One recorded bit -/

theorem byteWithBit_eq_shiftIn (v : Bool) (b : Byte) : byteWithBit v b = shiftIn v b := by cases v <;> rfl

theorem bitAppended_recorded (v : Bool) {b : Byte} {s : State} (hb : Memory.read s.data s.pos.toNat = some b) :
    BitAppended v b s (recorded v b s) := by
  refine ⟨?byte, rfl, ?cursor, fun _ hk => Memory.read_write_other _ _ hk, rfl, rfl, rfl⟩
  case byte => rw [byteWithBit_eq_shiftIn]; exact Memory.read_write_same _ hb
  case cursor => by_cases h7 : s.bits = 7#3 <;> simp [h7]

theorem bitOverflowed_overflowed (v : Bool) {b : Byte} {s : State} (hb : Memory.read s.data s.pos.toNat = some b) :
    BitOverflowed v b s (overflowed v b s) := by
  refine ⟨?_, registersReset_doReset _, fun _ hk => Memory.read_write_other _ _ hk, rfl, rfl, rfl⟩
  rw [byteWithBit_eq_shiftIn]
  exact Memory.read_write_same _ hb

theorem exec_recbit_room {v : Bool} {s : State} {b : Byte} (hb : Memory.read s.data s.pos.toNat = some b)
    (hr : HasRoom Config.hw s) : exec (.recbit v) s = .next (recorded v b s) := by
  rw [exec_recbit, recbit_room hb hr, stateOf_ok, finish_ok]

/-- Settles O43: the two states RECBIT can leave are the appended bit and the overflow. -/
theorem recbitAppendsOrOverflows : Obligations.RecbitAppendsOrOverflows := by
  refine fun v s b hb => ⟨fun hr => ?_, fun hr => ?_⟩
  · exact ⟨_, exec_recbit_room hb hr, rfl, rfl, bitAppended_recorded v hb⟩
  · rw [exec_recbit, recbit_overflow hb (not_hasRoom_iff.mp hr), stateOf_ok, finish_ok]
    exact ⟨_, rfl, bitOverflowed_overflowed v hb⟩

theorem toggleFlip_eq (v : Bool) (f : BitVec 6) : toggleFlip v f = f ^^^ (if v then 1#6 else 0#6) := by
  cases v <;> rfl

/-- Settles O44: RECMAN is RECBIT of the updated flip flag in the state with the updated FLIP, which the terms on the
appended bit do not speak of. -/
theorem recmanStoresUpdatedFlag : Obligations.RecmanStoresUpdatedFlag := by
  refine fun v s b hb => ⟨fun hr => ?_, fun hr => ?_⟩
  · rw [exec_recman, recman_room hb hr, stateOf_ok, finish_ok, flipFlag_toggleFlip]
    exact ⟨_, rfl, rfl, toggleFlip_eq v s.flip,
      bitAppended_recorded (s := { s with flip := toggleFlip v s.flip }) _ hb⟩
  · rw [exec_recman, recman_overflow hb (not_hasRoom_iff.mp hr), stateOf_ok, finish_ok, flipFlag_toggleFlip]
    exact ⟨_, rfl, bitOverflowed_overflowed _ hb⟩

/-! ## PAD -/

/-- Settles O46: PAD finds the byte whole, fills it, or overflows in filling it. -/
theorem padNetEffect : Obligations.PadNetEffect := by
  refine fun s => ⟨fun h0 => ?aligned, fun b h0 hb => ⟨fun hp => ?filled, fun hp => ?overflowed⟩⟩
  case aligned => rw [exec_pad, pad_aligned _ h0, stateOf_ok, finish_ok]
  case filled =>
    rw [exec_pad, pad_room h0 hb hp, stateOf_ok, finish_ok]
    exact ⟨_, rfl, rfl, rfl, partialFilled_padded s.state hb⟩
  case overflowed =>
    rw [exec_pad, pad_overflow h0 hb hp, stateOf_ok, finish_ok]
    exact ⟨_, rfl, partialOverflowed_padOverflowed hb⟩

/-! ## A run of recorded bits within one byte -/

/-- A byte into which the bits have been shifted at the top, the first one first (R133). -/
def shiftInAll (vs : List Bool) (x : Byte) : Byte := vs.foldl (fun b v => shiftIn v b) x

@[simp] theorem shiftInAll_nil (x : Byte) : shiftInAll [] x = x := rfl

@[simp] theorem shiftInAll_cons (v : Bool) (vs : List Bool) (x : Byte) :
    shiftInAll (v :: vs) x = shiftInAll vs (shiftIn v x) := rfl

/-- The recorded bits stand at the top in arrival order, what is left of the old byte below them (R133). -/
theorem shiftInAll_getLsbD (vs : List Bool) (x : Byte) {j : Nat} (hj : j < 8) :
    (shiftInAll vs x).getLsbD j =
      if j + vs.length < 8 then x.getLsbD (j + vs.length) else vs.getD (j + vs.length - 8) false := by
  induction vs generalizing x with
  | nil => simp [hj]
  | cons v vs ih =>
    rw [shiftInAll_cons, ih, shiftIn_getLsbD, List.length_cons]
    obtain hlt | heq | hgt := Nat.lt_trichotomy (j + vs.length) 7
    · rw [if_pos (by omega), if_neg (by omega), if_pos (by omega), Nat.add_assoc]
    · rw [if_pos (by omega), if_pos heq, if_neg (by omega), show j + (vs.length + 1) - 8 = 0 by omega,
        List.getD_cons_zero]
    · rw [if_neg (by omega), if_neg (by omega),
        show j + (vs.length + 1) - 8 = j + vs.length - 8 + 1 by omega, List.getD_cons_succ]

/-- From `s` to `t` the bits have been recorded into the byte at `a`, which was `x`. -/
structure RecordedIntoByte (a : Nat) (vs : List Bool) (x : Byte) (s t : State) : Prop where
  byte      : Memory.read t.data a = some (shiftInAll vs x)
  totalBits : t.totalBits = s.totalBits + BitVec.ofNat 8 vs.length
  others    : SameBytesBut a s t

theorem RecordedIntoByte.nil {a : Nat} {x : Byte} {s : State} (hx : Memory.read s.data a = some x) :
    RecordedIntoByte a [] x s s :=
  ⟨hx, (BitVec.add_zero _).symm, fun _ _ => rfl⟩

theorem RecordedIntoByte.cons {v : Bool} {vs : List Bool} {x : Byte} {s t : State}
    (h : RecordedIntoByte s.pos.toNat vs (shiftIn v x) (recorded v x s) t) :
    RecordedIntoByte s.pos.toNat (v :: vs) x s t := by
  refine ⟨h.byte, ?_, fun k hk => (h.others k hk).trans (Memory.read_write_other _ _ hk)⟩
  rw [h.totalBits, recorded_totalBits, List.length_cons, Nat.add_comm vs.length, BitVec.ofNat_add, BitVec.add_assoc]

/-- While the byte at `a` has room for the bits, RECBIT of each completes. POS has to be at `a` only while a bit is still to
come: the eighth bit of the byte moves it on. -/
theorem runInstrs_recbits {a : Nat} (ha : a + 1 ≠ Config.hw.cap) (vs : List Bool) {s : State} {x : Byte}
    (hfit : vs ≠ [] → s.pos.toNat = a ∧ s.bits.toNat + vs.length ≤ 8) (hx : Memory.read s.data a = some x) :
    ∃ t, runInstrs (vs.map Instr.recbit) s = .next t ∧ RecordedIntoByte a vs x s t := by
  induction vs generalizing s x with
  | nil => exact ⟨s, rfl, .nil hx⟩
  | cons v vs ih =>
    obtain ⟨rfl, hlen⟩ := hfit (List.cons_ne_nil v vs)
    rw [List.length_cons] at hlen
    have hfit' : vs ≠ [] →
        (recorded v x s).pos.toNat = s.pos.toNat ∧ (recorded v x s).bits.toNat + vs.length ≤ 8 := by
      intro hvs
      have hpos := List.length_pos_of_ne_nil hvs
      have h7 : s.bits ≠ 7#3 := fun e => by rw [e] at hlen; simp at hlen; omega
      rw [recorded_pos, if_neg h7, recorded_bits, bits_succ h7]
      exact ⟨rfl, by omega⟩
    obtain ⟨t, hrun, hrec⟩ := ih hfit' (Memory.read_write_same (shiftIn v x) hx)
    refine ⟨t, ?_, hrec.cons⟩
    rw [List.map_cons, runInstrs, exec_recbit_room hx fun e => ha e.2]
    exact hrun

/-- Settles O47: the run records into the one byte, whose bits are those of the repeated shift. -/
theorem byteHoldsBitsInArrivalOrder : Obligations.ByteHoldsBitsInArrivalOrder := by
  intro vs s x hlen h0 hp hx
  have hfit : s.bits.toNat + vs.length ≤ 8 := by simpa [h0] using hlen
  obtain ⟨t, hrun, hrec⟩ := runInstrs_recbits hp vs (fun _ => ⟨rfl, hfit⟩) hx
  exact ⟨t, _, hrun, hrec.byte, fun _ hj => shiftInAll_getLsbD vs x hj, hrec.totalBits, hrec.others⟩

end Sys2Proof.Machine
end

section
/-! The class of a width, and the pulses that record nothing, in every state (`42_oregon_v3.md` R150, R152, R153, R156,
R161). -/

namespace Sys2Proof.Machine

/-- Settles O22: each range has the lemma of its class. -/
theorem classifyTable : Obligations.ClassifyTable := fun _ =>
  ⟨fun h => classify_gap (.inl h), classify_short, classify_long, fun h => classify_gap (.inr h)⟩

/-- Settles O28: such a pulse is a gap, and the count is below the band. -/
theorem gapBelowFortyResets : Obligations.GapBelowFortyResets := by
  intro w s hs hw hn
  have hband : inShortBand s.totalBits = false := (inShortBand_eq_false _).mpr (by omega)
  refine ⟨doReset s, ?_, registersReset_doReset s, rfl, rfl, rfl, rfl⟩
  rw [exec_feed, feed_gap_invalid _ hs (classify_gap hw) hband, finish_ok]

/-- A branch that does not leave 104 bits is all that FEED does (R161). -/
theorem respond_fullFrameTest_of_ne (c : Config) {s : State} (hn : s.totalBits.toNat ≠ 104) :
    respond c (.ok (fullFrameTest s)) = .ok s := by
  rw [respond_fullFrameTest, (isFullFrame_eq_false _).mpr hn, if_neg Bool.false_ne_true]

/-- Settles O29: the line and the FEED both count, and no frame is complete. -/
theorem longInUnknownCounts : Obligations.LongInUnknownCounts := by
  refine fun w s hs => ⟨whenSelected_of_selected (by simp [hs]) (.ok (countPreamble s)) s, fun hw hn => ?_⟩
  rw [exec_feed, feed_unknown_long _ hs hw, respond_fullFrameTest_of_ne _ (s := countPreamble s) hn]
  rfl

/-- Settles O31: the line and the FEED both wait for the second half, and no frame is complete. -/
theorem shortInOkWaits : Obligations.ShortInOkWaits := by
  refine fun w s hs => ⟨whenSelected_of_selected (by simp [hs]) (.ok (firstHalf s)) s, fun hw hn => ?_⟩
  rw [exec_feed, feed_ok_short _ hs hw, respond_fullFrameTest_of_ne _ (s := firstHalf s) hn]
  rfl

end Sys2Proof.Machine
end

section
/-! The pulses that record a bit, as lines of the map in every state with a byte at POS and as FEEDs under the invariant
(`42_oregon_v3.md` R154, R157, R158, R161, `41_bit_accumulator.md` R136). -/

namespace Sys2Proof.Machine

/-! ## The lines -/

theorem recordThen_room {c : Config} {v : Bool} (d : DecoderState) {s : State} {b : Byte}
    (hb : Memory.read s.data s.pos.toNat = some b) (hr : HasRoom c s) :
    recordThen c v d s = .ok
      { recorded (flipFlag (toggleFlip v s.flip)) b { s with flip := toggleFlip v s.flip } with state := d } := by
  rw [recordThen, recman_room hb hr]

/-- STATE is not written after the overflow (R136). -/
theorem recordThen_overflow {c : Config} {v : Bool} (d : DecoderState) {s : State} {b : Byte}
    (hb : Memory.read s.data s.pos.toNat = some b) (hr : ¬ HasRoom c s) :
    recordThen c v d s = .ok (overflowed (flipFlag (toggleFlip v s.flip)) b s) := by
  rw [recordThen, recman_overflow hb (not_hasRoom_iff.mp hr)]

/-- Where STATE is OK already, recording the toggle is recording it and then writing OK (R157). -/
theorem recordToggle_eq_recordThen_of_read {c : Config} {s : State} {b : Byte} (hs : s.state = .ok)
    (hb : Memory.read s.data s.pos.toNat = some b) : recordToggle c s = recordThen c true .ok s := by
  by_cases hr : HasRoom c s
  · rw [recordThen_room _ hb hr, recordToggle, recman_room hb hr, ← hs]
    rfl
  · rw [recordThen_overflow _ hb hr, recordToggle, recman_overflow hb (not_hasRoom_iff.mp hr)]

/-- A line that records a Manchester bit, from the FLIP given, appends the updated flip flag and goes to OK, or
overflows (R131, R136). -/
theorem finish_recordThen_ok {c : Config} (v : Bool) (f : BitVec 6) {s : State} {b : Byte}
    (hb : Memory.read s.data s.pos.toNat = some b) :
    (HasRoom c s → ∃ t, finish (recordThen c v .ok { s with flip := f }) = .next t ∧ t.state = .ok ∧
      t.flip = toggleFlip v f ∧ BitAppended (flipFlag (toggleFlip v f)) b s t) ∧
    (¬ HasRoom c s → ∃ t, finish (recordThen c v .ok { s with flip := f }) = .next t ∧
      BitOverflowed (flipFlag (toggleFlip v f)) b s t) := by
  refine ⟨fun hr => ?_, fun hr => ?_⟩
  · rw [recordThen_room (s := { s with flip := f }) _ hb hr, finish_ok]
    exact ⟨_, rfl, rfl, rfl, bitAppended_recorded (s := { s with flip := toggleFlip v f }) _ hb⟩
  · rw [recordThen_overflow (s := { s with flip := f }) _ hb hr, finish_ok]
    exact ⟨_, rfl, bitOverflowed_overflowed _ hb⟩

/-! ## FEED -/

theorem exec_feed_eq_apply (w : Width) {s : State} (h : Inv Config.hw s) :
    exec (.feed w) s = .next ((effectOf (classify w) s).apply s) := by
  rw [exec_feed, feed_eq w h, finish_ok]

theorem byteAtPos_of_read {s : State} {b : Byte} (hb : Memory.read s.data s.pos.toNat = some b) :
    byteAtPos s = b := by
  rw [byteAtPos, hb, Option.getD_some]

theorem bitAppended_storeFlip (f : BitVec 6) {s : State} {b : Byte}
    (hb : Memory.read s.data s.pos.toNat = some b) : BitAppended (flipFlag f) b s (storeFlip f s) := by
  rw [storeFlip, byteAtPos_of_read hb]
  exact bitAppended_recorded (flipFlag f) hb

/-- Under the invariant a pulse that stores a flip flag appends it, and STATE is OK or, at the 104th bit, DONE
(R161). -/
theorem exec_feed_of_store {w : Width} {f : BitVec 6} {s : State} {b : Byte} (h : Inv Config.hw s)
    (he : effectOf (classify w) s = .store f) (hb : Memory.read s.data s.pos.toNat = some b) :
    ∃ t, exec (.feed w) s = .next t ∧ t.state = (if s.totalBits.toNat = 103 then .done else .ok) ∧ t.flip = f ∧
      BitAppended (flipFlag f) b s t := by
  have hguard := guard_effectOf h (classify w)
  rw [he] at hguard
  obtain ⟨hn, -⟩ := hguard
  refine ⟨storeFlip f s, ?_, storeFlip_state_eq f hn, rfl, bitAppended_storeFlip f hb⟩
  rw [exec_feed_eq_apply w h, he]
  rfl

/-! ## The statements -/

/-- Settles O30: the line sets FLIP to 1 before RECMAN toggles it; the FEED stores the flip flag of a FLIP of 0, as the
first bit of the attempt. -/
theorem shortAfterPreambleSynchronises : Obligations.ShortAfterPreambleSynchronises := by
  intro w s b hs hf hb
  have hseen := (preambleSeen_iff _).mpr hf
  have hline : exec .stepUnknownShortSync s = finish (preambleFound Config.hw s) :=
    whenSelected_of_selected (by simp [hs, hseen]) _ s
  have hflag : toggleFlip true 1#6 = 0#6 := rfl
  obtain ⟨hroom, hover⟩ := finish_recordThen_ok (c := Config.hw) true 1#6 hb
  rw [hflag] at hroom hover
  rw [hline]
  refine ⟨hroom, hover, fun h hw => ?feed⟩
  case feed =>
    obtain ⟨hn, hk, hp⟩ := h.unknown hs
    have he : effectOf (classify w) s = .store 0#6 := by rw [hw, effectOf_unknown_short hs, if_pos hseen]
    obtain ⟨t, ht, hstate, hflip, hbyte, htotal, hcursor, hothers, hout⟩ := exec_feed_of_store h he hb
    rw [hn] at hstate htotal
    rw [hk, if_neg (by decide), hp] at hcursor
    obtain ⟨hbits, hpos⟩ := hcursor
    rw [hp] at hbyte hothers
    rw [byteWithBit_eq_shiftIn] at hbyte
    exact ⟨t, ht, hstate, hflip, htotal, hbits, hpos, hbyte.trans (congrArg some (shiftIn_false b)), hothers, hout⟩

/-- Settles O32: recording the toggle is storing the complement of the flip flag. -/
theorem longInOkRecordsToggle : Obligations.LongInOkRecordsToggle := by
  intro w s b hs hb
  have hline : exec .stepOkLong s = finish (recordThen Config.hw true .ok s) := by
    rw [← recordToggle_eq_recordThen_of_read hs hb]
    exact whenSelected_of_selected (by simp [hs]) _ s
  obtain ⟨hroom, hover⟩ := finish_recordThen_ok (c := Config.hw) true s.flip hb
  rw [flipFlag_toggleFlip_true] at hroom hover
  rw [hline]
  refine ⟨hroom, hover, fun h hw => ?feed⟩
  case feed =>
    have hfeed := exec_feed_of_store h (by rw [hw, effectOf_ok_long hs]) hb
    rwa [flipFlag_toggleFlip_true] at hfeed

/-- Settles O33: recording 0 is storing the flip flag as it is. -/
theorem shortInT0RecordsSame : Obligations.ShortInT0RecordsSame := by
  intro w s b hs hb
  have hline : exec .stepT0Short s = finish (secondHalf Config.hw s) := whenSelected_of_selected (by simp [hs]) _ s
  obtain ⟨hroom, hover⟩ := finish_recordThen_ok (c := Config.hw) false s.flip hb
  rw [toggleFlip_false] at hroom hover
  rw [hline]
  refine ⟨hroom, hover, fun h hw => ?feed⟩
  case feed =>
    have hfeed := exec_feed_of_store h (by rw [hw, effectOf_t0_short hs]) hb
    rwa [toggleFlip_false] at hfeed

/-- Settles O38: FEED completes with the effect of the pulse, which agrees with the table. -/
theorem transitionTable : Obligations.TransitionTable := fun w _ h =>
  ⟨_, exec_feed_eq_apply w h, effectOf_apply_state h (classify w)⟩

end Sys2Proof.Machine
end

section
/-! A gap in the band completes the frame (`42_oregon_v3.md` R152, `40_engine_ops.md` R119, `41_bit_accumulator.md`
R134). -/

namespace Sys2Proof.Machine

/-- Under the invariant a gap in the band, the line or the FEED, closes the frame. -/
theorem exec_gap_eq_closeFrame {i : Instr} {s : State} (h : Inv Config.hw s) (hs : s.state ≠ .done)
    (hn : 40 ≤ s.totalBits.toNat ∧ s.totalBits.toNat ≤ 103)
    (hi : i = .stepGapComplete ∨ ∃ w, i = .feed w ∧ classify w = .gap) : exec i s = .next (closeFrame s) := by
  rw [exec_gap_eq_complete hs hn hi, complete_room h.buffer (h.pos_le_of_live hs), finish_ok]

/-- The byte at the old POS in a closed frame. -/
theorem read_closeFrame_pos {s : State} {b : Byte} (hb : Memory.read s.data s.pos.toNat = some b) :
    Memory.read (closeFrame s).data s.pos.toNat = some (if s.bits = 0#3 then b else b >>> (8 - s.bits.toNat)) := by
  by_cases h0 : s.bits = 0#3
  · rw [closeFrame_aligned h0, if_pos h0]
    exact hb
  · rw [closeFrame_partial h0, if_neg h0, byteAtPos_of_read hb]
    exact Memory.read_write_same _ hb

/-- Settles O34: the line and the FEED both close the frame. -/
theorem gapInBandCompletes : Obligations.GapInBandCompletes := by
  intro w s b h hs hw hlo hhi hb
  have hframe := complete_frame (complete_room h.buffer (h.pos_le_of_live hs))
  exact ⟨closeFrame s, exec_gap_eq_closeFrame h hs ⟨hlo, hhi⟩ (.inr ⟨w, rfl, hw⟩),
    exec_gap_eq_closeFrame h hs ⟨hlo, hhi⟩ (.inl rfl), rfl, closeFrame_flip s, closeFrame_bits s,
    closeFrame_pos_toNat h.counters hhi, closeFrame_totalBits_toNat h.counters hhi, read_closeFrame_pos hb,
    hframe.bytes, hframe.outside⟩

end Sys2Proof.Machine
end

section
/-! Frames delivered: the bits of FRAMEBITS and a GAP, and thirteen bytes read back by GETFRAME (`42_oregon_v3.md` R152,
R161, `41_bit_accumulator.md` R134, R137, `40_engine_ops.md` R112). -/

namespace Sys2Proof.Machine

theorem runInstrs_cons_of_next {i : Instr} {s t : State} (h : exec i s = .next t) (is : List Instr) :
    runInstrs (i :: is) s = runInstrs is t := by
  rw [runInstrs, h]

/-! ## What FRAMEBITS records from an empty count -/

/-- An attempt that has recorded exactly the bits given. -/
structure AttemptHolds (c : Config) (bs : List Bool) (t : State) : Prop where
  inv   : Inv c t
  state : t.state = stateAtCount bs.length
  total : t.totalBits.toNat = bs.length
  bit   : ∀ n, n < bs.length → recordedBit t n = bs[n]?

theorem BitsRecorded.attemptHolds {c : Config} {bs : List Bool} {s t : State} (h : BitsRecorded c bs s t)
    (h0 : s.totalBits = 0#8) : AttemptHolds c bs t := by
  have hzero : s.totalBits.toNat = 0 := by rw [h0]; rfl
  have htotal : t.totalBits.toNat = bs.length := by rw [h.total, hzero, Nat.zero_add]
  refine ⟨h.inv, by rw [h.state, htotal], htotal, fun n hn => ?_⟩
  have hbit := h.bit n hn
  rwa [hzero, Nat.zero_add] at hbit

theorem frameBits_attemptHolds {bs : List Bool} {s : State} (h : Inv Config.hw s) (hs : s.state = .unknown)
    (hf : 32 ≤ s.flip.toNat) (hwf : frameBitsOk bs = true) (hlen : bs.length ≤ 104) :
    ∃ t, exec (.frameBits bs) s = .next t ∧ AttemptHolds Config.hw bs t ∧ SameOutside s t := by
  obtain ⟨rest, rfl⟩ := (frameBitsOk_iff bs).mp hwf
  obtain ⟨hzero, -, -⟩ := h.unknown hs
  obtain ⟨t, ht, hrec⟩ := frameBits_records h hs hf hlen
  exact ⟨t, ht, hrec.attemptHolds hzero, hrec.outside⟩

/-! ## Short frames -/

/-- A closed frame reads, bit by bit, as the list given, and zeros past its end (R134). -/
theorem AttemptHolds.bit_closeFrame {c : Config} {bs : List Bool} {s : State} (h : AttemptHolds c bs s)
    (hlen : bs.length ≤ 103) {k : Nat} (hk : k < 8 * (closeFrame s).pos.toNat) :
    (Memory.read (closeFrame s).data (k / 8)).map (fun b => b.getLsbD (k % 8)) = some (bs.getD k false) := by
  have htotal := h.total
  have hn : s.totalBits.toNat ≤ 103 := by omega
  have hwhole : k / 8 < (closeFrame s).pos.toNat := by omega
  have hbit : recordedBit (closeFrame s) k = some (bs.getD k false) := by
    rw [recordedBit_closeFrame h.inv hn (by rwa [closeFrame_totalBits_toNat h.inv.counters hn]), htotal]
    split
    case isTrue hlt => rw [h.bit k hlt, List.getD_eq_getElem _ _ hlt, List.getElem?_eq_getElem hlt]
    case isFalse hge => rw [List.getD_eq_default _ _ (by omega)]
  rw [recordedBit] at hbit
  simpa only [if_pos hwhole] using hbit

/-- Settles O54: FRAMEBITS leaves an attempt that holds the bits, and GAP, which is a FEED, closes it. -/
theorem shortFrameDelivered : Obligations.ShortFrameDelivered := by
  intro bs s h hs hf hwf hlo hhi
  obtain ⟨t, ht, hheld, -⟩ := frameBits_attemptHolds h hs hf hwf (by omega)
  have htotal := hheld.total
  have hlive : t.state ≠ .done := by rw [hheld.state, stateAtCount, if_neg (by omega)]; decide
  obtain ⟨-, -, hgap, -⟩ := symbolsAreFeeds t
  have hclose : exec .gap t = .next (closeFrame t) :=
    hgap.trans (exec_gap_eq_closeFrame hheld.inv hlive (by omega) (.inr ⟨_, rfl, classify_1500⟩))
  refine ⟨closeFrame t, ?_, rfl, ?_, fun k hk => hheld.bit_closeFrame hhi hk⟩
  · rw [runInstrs_cons_of_next ht, runInstrs_singleton, hclose]
  · rw [closeFrame_pos_toNat hheld.inv.counters (by omega), htotal]

/-! ## The bits of a list of bytes -/

theorem bitsOfBytes_cons (h : Byte) (hs : List Byte) :
    bitsOfBytes (h :: hs) = (List.range 8).map h.getLsbD ++ bitsOfBytes hs := rfl

theorem length_bitsOfBytes (hs : List Byte) : (bitsOfBytes hs).length = 8 * hs.length := by
  induction hs with
  | nil => rfl
  | cons h hs ih =>
    rw [bitsOfBytes_cons, List.length_append, ih, List.length_map, List.length_range, List.length_cons]
    omega

theorem getElem?_bitsOfBytes (hs : List Byte) (a : Nat) {j : Nat} (hj : j < 8) :
    (bitsOfBytes hs)[8 * a + j]? = hs[a]?.map fun h => h.getLsbD j := by
  induction hs generalizing a with
  | nil => rfl
  | cons h hs ih =>
    rw [bitsOfBytes_cons]
    cases a with
    | zero =>
      rw [List.getElem?_append_left (by simpa using hj), Nat.mul_zero, Nat.zero_add, List.getElem?_map,
        List.getElem?_range hj]
      rfl
    | succ a =>
      have hskip : 8 * (a + 1) + j - ((List.range 8).map h.getLsbD).length = 8 * a + j := by
        rw [List.length_map, List.length_range]
        omega
      rw [List.getElem?_append_right (by simp; omega), hskip, ih, List.getElem?_cons_succ]

theorem frameBitsOk_bitsOfBytes {hs : List Byte} (h : frameBytesOk hs = true) :
    frameBitsOk (bitsOfBytes hs) = true := by
  cases hs with
  | nil => cases h
  | cons x hs => exact h

/-! ## The round trip -/

/-- A whole byte is known by its recorded bits (R133). -/
theorem read_of_recordedBits {c : Config} {s : State} {a : Nat} {x : Byte} (h : BufferOk c s) (ha : a < s.pos.toNat)
    (hbits : ∀ j, j < 8 → recordedBit s (8 * a + j) = some (x.getLsbD j)) : Memory.read s.data a = some x := by
  obtain ⟨hwf, hlt⟩ := h
  obtain ⟨b, hb⟩ := Memory.read_of_wf hwf (ha.trans hlt)
  rw [hb, Option.some_inj]
  refine BitVec.eq_of_getLsbD_eq fun j hj => ?_
  have hdiv : (8 * a + j) / 8 = a := by omega
  have hmod : (8 * a + j) % 8 = j := by omega
  have hbit := hbits j hj
  rwa [recordedBit_whole (by rwa [hdiv]) (by rwa [hdiv]), hmod, Option.some_inj] at hbit

/-- 104 bits are a frame of 13 bytes (R161). -/
theorem AttemptHolds.done_of_full {c : Config} {bs : List Bool} {t : State} (h : AttemptHolds c bs t)
    (hlen : bs.length = 104) : t.state = .done ∧ t.pos = 13#5 := by
  have hdone : t.state = .done := by rw [h.state, hlen]; rfl
  obtain ⟨hk, -⟩ := h.inv.frameComplete hdone
  have hc := h.inv.counters
  rw [CountersAgree, h.total, hlen, hk, BitVec.toNat_zero] at hc
  exact ⟨hdone, BitVec.eq_of_toNat_eq (show t.pos.toNat = 13 by omega)⟩

/-- An attempt that holds the bits of a list of bytes holds, below POS, the bytes. -/
theorem AttemptHolds.read_eq_getElem? {c : Config} {hs : List Byte} {t : State} {a : Nat}
    (h : AttemptHolds c (bitsOfBytes hs) t) (ha : a < t.pos.toNat) (hlt : a < hs.length) :
    Memory.read t.data a = hs[a]? := by
  have hget : hs[a]? = some hs[a] := List.getElem?_eq_getElem hlt
  rw [hget]
  refine read_of_recordedBits h.inv.buffer ha fun j hj => ?_
  rw [h.bit _ (by rw [length_bitsOfBytes]; omega), getElem?_bitsOfBytes hs a hj, hget, Option.map_some]

/-- GETFRAME of an attempt that holds the bits of 13 bytes answers these bytes (R112). -/
theorem AttemptHolds.frameObservation_whole {c : Config} {hs : List Byte} {t : State}
    (h : AttemptHolds c (bitsOfBytes hs) t) (hlen : hs.length = 13) :
    t.state = .done ∧ frameObservation .whole t = .frame 13#5 hs := by
  obtain ⟨hdone, hpos⟩ := h.done_of_full (by rw [length_bitsOfBytes, hlen])
  have hpos' : t.pos.toNat = 13 := by rw [hpos]; rfl
  have hbytes : frameBytesOf t = hs := by
    refine List.ext_getElem? fun a => ?_
    by_cases ha : a < 13
    · rw [frameBytesOf_getElem?_of_done h.inv.buffer hdone (by omega), h.read_eq_getElem? (by omega) (by omega)]
    · rw [List.getElem?_eq_none (by rw [frameBytesOf_length_of_done hdone]; omega),
        List.getElem?_eq_none (by omega)]
  exact ⟨hdone, by rw [frameObservation, frameCount_of_done hdone, hpos, hbytes]⟩

/-- After the reset, a preamble of at least 32 LONG leaves UNKNOWN with FLIP at 32, nothing outside the block
changed. -/
theorem preamble_from_reset {n : Nat} {s : State} (hb : BufferOk Config.hw s) (hr : RegistersReset s) (hn : 32 ≤ n) :
    ∃ t, exec (.preamble n) s = .next t ∧ Inv Config.hw t ∧ t.state = .unknown ∧ 32 ≤ t.flip.toNat ∧
      SameOutside s t := by
  have ⟨hs, hf, htotal, _, _⟩ := hr
  obtain ⟨hwf, -⟩ := hb
  have hcount := preambleCountsToThirtyTwo n s hs hf (by simp [htotal])
  obtain ⟨t, ht, hinv⟩ := traceOperationsKeepInvariant (.preamble n) s rfl (inv_of_registersReset hwf hr)
  rw [hcount] at ht
  cases ht
  rw [Nat.min_eq_right hn] at hcount hinv
  exact ⟨_, hcount, hinv, hs, le_rfl, rfl, rfl, rfl⟩

/-- Settles O53: PREAMBLE, then FRAMEBYTES as the FRAMEBITS of its bits, whose 104th completes the frame, then the
read. -/
theorem thirteenBytesRoundTrip : Obligations.ThirteenBytesRoundTrip := by
  intro n hs s hb hr hn hwf hlen
  obtain ⟨t, ht, hinv, hstate, hflip, -, hobs, -⟩ := preamble_from_reset hb hr hn
  have hcount : (bitsOfBytes hs).length ≤ 104 := by rw [length_bitsOfBytes, hlen]
  obtain ⟨u, hu, hheld, -, hobs', -⟩ :=
    frameBits_attemptHolds hinv hstate hflip (frameBitsOk_bitsOfBytes hwf) hcount
  have hu' : exec (.frameBytes hs) t = .next u := hu
  obtain ⟨hdone, hframe⟩ := hheld.frameObservation_whole hlen
  refine ⟨readFrame .whole u, ?_, hdone, ?_⟩
  · rw [runInstrs_cons_of_next ht, runInstrs_cons_of_next hu', runInstrs_singleton]
    rfl
  · rw [readFrame_observed, hframe, hobs', hobs]

end Sys2Proof.Machine
end

section
/-! The one exception: an INVALID pulse, as a FEED and as the line of the map that is selected, has the effect of RESET
(`60_exceptions.md` R182, R185, `42_oregon_v3.md` R152, R155, R159, R160). -/

namespace Sys2Proof.Machine

/-- No pulse is INVALID in DONE (R118). -/
theorem PulseInvalid.live {w : Width} {s : State} (h : PulseInvalid w s) : s.state ≠ .done := by
  intro hs
  simp [PulseInvalid, hs] at h

/-- A gap is INVALID where its count is outside the band (R152). -/
theorem PulseInvalid.gap_count {w : Width} {s : State} (h : PulseInvalid w s) (hw : classify w = .gap) :
    inShortBand s.totalBits = false := by
  cases hs : s.state with
  | done => exact absurd hs h.live
  | unknown | t0 | t1 | t2 | t3 | ok | code7 => simpa only [PulseInvalid, hw, hs] using h

/-- FEED answers each cause of INVALID with the reset effect. -/
theorem feed_of_pulseInvalid (c : Config) {w : Width} {s : State} (h : PulseInvalid w s) :
    feed c w s = .ok (doReset s) := by
  cases hw : classify w with
  | gap => exact feed_gap_invalid c h.live hw (h.gap_count hw)
  | short =>
    cases hs : s.state with
    | unknown => exact feed_early c hs hw (by simpa only [PulseInvalid, hw, hs] using h)
    | t1 | t2 | t3 | code7 => exact feed_reserved c (by rw [hs]; rfl) (by simp [hw])
    | ok | t0 | done => simp [PulseInvalid, hw, hs] at h
  | long =>
    cases hs : s.state with
    | t0 => exact feed_t0_long c hs hw
    | t1 | t2 | t3 | code7 => exact feed_reserved c (by rw [hs]; rfl) (by simp [hw])
    | unknown | ok | done => simp [PulseInvalid, hw, hs] at h

theorem exec_stepGapInvalid {s : State} (hs : s.state ≠ .done)
    (hn : ¬ (40 ≤ s.totalBits.toNat ∧ s.totalBits.toNat ≤ 103)) : exec .stepGapInvalid s = .next (doReset s) :=
  whenSelected_of_selected (by simp [(isDone_eq_false s).mpr hs, (inShortBand_eq_false _).mpr hn])
    (.ok (takeInvalid .gapCount s)) s

theorem exec_stepUnknownShortEarly {s : State} (hs : s.state = .unknown) (hf : s.flip.toNat < 32) :
    exec .stepUnknownShortEarly s = .next (doReset s) :=
  whenSelected_of_selected (by simp [hs, (preambleSeen_eq_false _).mpr hf]) (.ok (takeInvalid .earlyShort s)) s

theorem exec_stepT0Long {s : State} (hs : s.state = .t0) : exec .stepT0Long s = .next (doReset s) :=
  whenSelected_of_selected (by simp [hs]) (.ok (takeInvalid .longInT0 s)) s

theorem exec_stepReserved {p : PulseClass} {s : State} (hp : p ≠ .gap) (hs : isReserved s.state = true) :
    exec (.stepReserved p) s = .next (doReset s) :=
  whenSelected_of_selected (by simp [hp, hs]) (.ok (takeInvalid .reservedState s)) s

/-- Settles O27: RESET, every INVALID pulse and each line that takes INVALID are `doReset`, which is not in DONE. -/
theorem invalidPulseResets : Obligations.InvalidPulseResets := by
  refine fun s => ⟨doReset s, rfl, registersReset_doReset s, doReset_data s, ⟨rfl, rfl, rfl⟩, fun w hw => ⟨?_, rfl⟩,
    exec_stepGapInvalid, exec_stepUnknownShortEarly, exec_stepT0Long, fun p hp hs => exec_stepReserved hp ?_⟩
  · rw [exec_feed, feed_of_pulseInvalid _ hw, finish_ok]
  · obtain h | h | h | h := hs <;> rw [h] <;> rfl

end Sys2Proof.Machine
end

section
/-! The reset state, and what keeps it: RESET and every pulse that is not LONG (`70_reset_and_hazards.md` R210, R212). -/

namespace Sys2Proof.Machine

theorem registersReset_reset : RegistersReset State.reset := ⟨rfl, rfl, rfl, rfl, rfl⟩

/-- Settles O8: the registers are those of the rule, and they meet the invariant whatever bytes DATA holds. -/
theorem resetMeetsInvariant : Obligations.ResetMeetsInvariant :=
  ⟨registersReset_reset, inv_of_registersReset (Memory.wf_powerOnData Config.hw 0) registersReset_reset⟩

/-- The reset effect writes nothing where the registers are already reset (R212). -/
theorem doReset_eq_self {s : State} (h : RegistersReset s) : doReset s = s := by
  obtain ⟨hs, hf, hn, hb, hp⟩ := h
  rw [doReset, ← hs, ← hf, ← hn, ← hb, ← hp]

/-- In the reset state a gap has no bits to complete (R152) and a short no preamble before it (R155). -/
theorem pulseInvalid_of_registersReset {w : Width} {s : State} (h : RegistersReset s) (hw : classify w ≠ .long) :
    PulseInvalid w s := by
  obtain ⟨hs, hf, hn, -, -⟩ := h
  cases hc : classify w with
  | gap => simp [PulseInvalid, hc, hs, inShortBand_eq_false, hn]
  | short => simp [PulseInvalid, hc, hs, preambleSeen_eq_false, hf]
  | long => exact absurd hc hw

theorem exec_feed_of_registersReset {w : Width} {s : State} (h : RegistersReset s) (hw : classify w ≠ .long) :
    exec (.feed w) s = .next s := by
  rw [exec_feed, feed_of_pulseInvalid _ (pulseInvalid_of_registersReset h hw), finish_ok, doReset_eq_self h]

/-- RESETs and INVALID pulses, in any order and number, leave the reset state as it is (R212). -/
theorem runInstrs_of_registersReset {is : List Instr} {s : State} (h : RegistersReset s)
    (his : ∀ i ∈ is, i = .reset ∨ ∃ w, i = .feed w ∧ classify w ≠ .long) : runInstrs is s = .next s := by
  induction is with
  | nil => rfl
  | cons i is ih =>
    obtain ⟨hi, his⟩ := List.forall_mem_cons.mp his
    have hstep : exec i s = .next s := by
      obtain rfl | ⟨w, rfl, hw⟩ := hi
      · exact congrArg Host.Outcome.next (doReset_eq_self h)
      · exact exec_feed_of_registersReset h hw
    rw [runInstrs_cons_of_next hstep]
    exact ih his

theorem runInstrs_reset_cons {is : List Instr} (s : State)
    (his : ∀ i ∈ is, i = .reset ∨ ∃ w, i = .feed w ∧ classify w ≠ .long) :
    runInstrs (.reset :: is) s = exec .reset s :=
  runInstrs_of_registersReset (registersReset_doReset s) his

/-- Settles O15: after the first RESET the registers are reset, and the rest of the list keeps that state; a second
HWRESET resets the registers again. -/
theorem resetIsIdempotent : Obligations.ResetIsIdempotent := fun s =>
  ⟨runInstrs_reset_cons s (List.forall_mem_singleton.mpr (.inl rfl)), fun _ => runInstrs_reset_cons s,
    hwreset Config.hw (hwreset Config.hw s), rfl, registersReset_hwreset Config.hw _⟩

end Sys2Proof.Machine
end

section
/-! A line of the step map that STATE, the class and the counters do not select has no effect (`30_encoding.md` R89,
log entry 9): each clause denies one conjunct of the line's selection. -/

namespace Sys2Proof.Machine

/-- The V3 variant gives a rule to the four other states (R92). -/
theorem isReserved_eq_false_iff (d : DecoderState) :
    isReserved d = false ↔ d = .unknown ∨ d = .t0 ∨ d = .ok ∨ d = .done := by
  cases d <;> decide

theorem not_isDone_eq_false (s : State) : (!isDone s) = false ↔ s.state = .done := by simp [isDone_iff]

theorem decide_ne_gap_eq_false {p : PulseClass} : decide (p ≠ .gap) = false ↔ p = .gap := by simp

theorem exec_stepGapComplete_unselected {s : State}
    (h : s.state = .done ∨ ¬ (40 ≤ s.totalBits.toNat ∧ s.totalBits.toNat ≤ 103)) :
    exec .stepGapComplete s = .next s :=
  whenSelected_of_unselected
    (Bool.and_eq_false_iff.mpr (h.imp (not_isDone_eq_false s).mpr (inShortBand_eq_false _).mpr)) _ s

theorem exec_stepGapInvalid_unselected {s : State}
    (h : s.state = .done ∨ (40 ≤ s.totalBits.toNat ∧ s.totalBits.toNat ≤ 103)) :
    exec .stepGapInvalid s = .next s := by
  have hband : 40 ≤ s.totalBits.toNat ∧ s.totalBits.toNat ≤ 103 → (!inShortBand s.totalBits) = false :=
    fun hn => congrArg not ((inShortBand_iff _).mpr hn)
  exact whenSelected_of_unselected (Bool.and_eq_false_iff.mpr (h.imp (not_isDone_eq_false s).mpr hband)) _ s

theorem exec_stepUnknownShortSync_unselected {s : State} (h : s.state ≠ .unknown ∨ s.flip.toNat < 32) :
    exec .stepUnknownShortSync s = .next s :=
  whenSelected_of_unselected
    (Bool.and_eq_false_iff.mpr (h.imp decide_eq_false (preambleSeen_eq_false _).mpr)) _ s

theorem exec_stepUnknownShortEarly_unselected {s : State} (h : s.state ≠ .unknown ∨ 32 ≤ s.flip.toNat) :
    exec .stepUnknownShortEarly s = .next s := by
  have hseen : 32 ≤ s.flip.toNat → (!preambleSeen s.flip) = false :=
    fun hf => congrArg not ((preambleSeen_iff _).mpr hf)
  exact whenSelected_of_unselected (Bool.and_eq_false_iff.mpr (h.imp decide_eq_false hseen)) _ s

theorem exec_stepReserved_unselected {p : PulseClass} {s : State}
    (h : p = .gap ∨ s.state = .unknown ∨ s.state = .t0 ∨ s.state = .ok ∨ s.state = .done) :
    exec (.stepReserved p) s = .next s :=
  whenSelected_of_unselected
    (Bool.and_eq_false_iff.mpr (h.imp decide_ne_gap_eq_false.mpr (isReserved_eq_false_iff _).mpr)) _ s

theorem exec_stepFullFrame_unselected {p : PulseClass} {s : State}
    (h : p = .gap ∨ s.state = .done ∨ s.totalBits.toNat ≠ 104) : exec (.stepFullFrame p) s = .next s := by
  have hcount : s.state = .done ∨ s.totalBits.toNat ≠ 104 → (!isDone s && isFullFrame s.totalBits) = false :=
    fun hd => Bool.and_eq_false_iff.mpr (hd.imp (not_isDone_eq_false s).mpr (isFullFrame_eq_false _).mpr)
  exact whenSelected_of_unselected (Bool.and_eq_false_iff.mpr (h.imp decide_ne_gap_eq_false.mpr hcount)) _ s

/-- Settles O36: line by line; a line that STATE alone selects is not selected in any other STATE. -/
theorem unselectedLineChangesNothing : Obligations.UnselectedLineChangesNothing := by
  intro s p
  refine ⟨exec_stepGapComplete_unselected, exec_stepGapInvalid_unselected, fun hs => ?_,
    exec_stepUnknownShortSync_unselected, exec_stepUnknownShortEarly_unselected, fun hs => ⟨?_, ?_⟩,
    fun hs => ⟨?_, ?_⟩, exec_stepReserved_unselected, exec_stepFullFrame_unselected⟩
  all_goals exact whenSelected_of_unselected (decide_eq_false hs) _ s

end Sys2Proof.Machine
end
